-- ==== Sys2Proof/Word.lean ====
section
/-! DEFINITION. The words of MCPB (R7: "A byte is 8 bits"; R4: ID_W = 16, TABLE_W = 32, ADDR_FIELD_LEN bytes
carrying 23 offset bits, R97). Every value of the block is unsigned. -/

namespace Sys2Proof

/-- A byte of the wire, of a buffer or of the card's storage (R7); also the card status value (R30, STATUS_W). -/
abbrev Byte := BitVec 8

/-- The card identification word (R4, ID_W). -/
abbrev IdWord := BitVec 16

/-- A geometry field, a table entry, or a byte offset operand (R21, R37, R103). -/
abbrev Word := BitVec 32

/-- The offset bits that reach the wire (R97). -/
abbrev Offset23 := BitVec 23

end Sys2Proof
end

