-- ==== Sys2Proof/Config.lean ====
section
/-! DEFINITION. The parameters of 00_scope.md: what the source fixes (R4), what it leaves open (R5, each an opaque
constant that meets R5's constraint by construction, logs 10 and 11), and the free values (R8 "draw", logs 12 and 13).
No suggested value of 93_implementation_defined.md (G1 to G5) is used. -/

namespace Sys2Proof

/-- The two channels, "numbered 0 and 1" (R4, NCH = 2). -/
inductive Channel where
  | ch0
  | ch1
  deriving DecidableEq, Repr

/-- A member of the device-slot enumeration (R5). CARD_SLOT, "the member the card answers on", is the constructor
`card`; the others are numbered. DESIGN CHOICE of names only (log 11), safe. -/
inductive DeviceSlot where
  | card
  | other (k : Nat)
  deriving DecidableEq, Repr

/-- A member of the clock-speed enumeration (R5, D26): "affects timing only, not protocol shape". -/
structure Speed where
  index : Nat
  deriving DecidableEq, Repr

namespace Config

/-- Bytes in the write buffer (R4). -/
def writeBufLen : Nat := 128

/-- Bytes in the read buffer proper (R4). -/
def readBufLen : Nat := 512

/-- Bytes of the card's storage that an address field can name: 23 offset bits (R97, R76). -/
def cardLen : Nat := 8388608

/-- `PAD` (R5, R94, D7): the byte sent after the opcode of Identify and Status. -/
def pad : Byte := 0x00

/-- The eight entries of the Latency Table, which the source does not give (R37, N1, D14). -/
opaque latEntry : BitVec 3 → Word

/-- The entries 0 to 5 of the Sector-Size Table, which the source does not give (R38, N2, D14). -/
opaque secEntry : BitVec 3 → Word

/-- `LAT_TABLE` (R37). -/
def latTable (i : BitVec 3) : Word := latEntry i

/-- `SEC_TABLE` (R38, R4): entries 6 and 7 are zero, the others are open. -/
def secTable (i : BitVec 3) : Word := if i = 6 ∨ i = 7 then 0 else secEntry i

/-- The position of the status flag "ready", which the source does not give (R30, N4, D15). -/
opaque readyBit : Fin 8

/-- How far above `readyBit`, less one and modulo 8, the flag "unlocked" stands (R30, D15). -/
opaque unlockedGap : Fin 7

/-- `READY_MASK`: one bit (R5). -/
def readyMask : Byte := BitVec.twoPow 8 readyBit.val

/-- `UNLOCKED_MASK`: one bit, different from the ready bit (R5). No rule reads it (R30). -/
def unlockedMask : Byte := BitVec.twoPow 8 ((readyBit.val + unlockedGap.val + 1) % 8)

/-- The largest entry of `LAT_TABLE`. -/
def maxLatency : Nat :=
  [0, 1, 2, 3, 4, 5, 6, 7].foldl (fun m i => max m (latTable (BitVec.ofNat 3 i)).toNat) 0

/-- By how much the extra space exceeds the largest latency (N12). -/
opaque readSlack : Nat

/-- `READ_EXTRA`: any natural number with `READ_EXTRA >= max(LAT_TABLE)` (R5, D10). -/
def readExtra : Nat := maxLatency + readSlack

/-- The last member of the speed enumeration; there is at least one (R5). -/
opaque lastSpeed : Nat

/-- How many device slots there are besides CARD_SLOT (R5). -/
opaque otherSlots : Nat

/-- The free value number `n` of a channel: a draw of R8 (log 12). -/
opaque freeByte : Channel → Nat → Byte

/-- What a byte of `RBUF[c]` holds before anything is written to it: unspecified (R42, R55, log 13). -/
opaque rbufInit : Channel → Nat → Byte

/-- What a byte of `CARD[c]` holds before anything is written to it: unspecified (R43, R76, log 13). The first number
says after which event: 0 is power-on, the others are spans whose first byte was no opcode (R77, log 47). -/
opaque cardInit : Channel → Nat → Nat → Byte

/-- Entry `n` of a status script without an end (R76 "finite or infinite", log 19). -/
opaque scriptEntry : Channel → Nat → Byte

end Config

/-- Is the speed a member of the enumeration (R5)? -/
def Speed.wf (sp : Speed) : Bool := decide (sp.index ≤ Config.lastSpeed)

/-- Is the slot a member of the enumeration (R5)? -/
def DeviceSlot.wf : DeviceSlot → Bool
  | .card => true
  | .other k => decide (k < Config.otherSlots)

end Sys2Proof
end

