-- ==== Sys2Proof/Syntax.lean ====
section
/-! DEFINITION. The operations of MCPB: one constructor of `Instr` per row of opcode_table.json, with the operands of
R103. A wire command's channel is the channel on whose wire its bytes appear (R104, log 3). -/

namespace Sys2Proof

/-- Which of the two DMA transfers (R127): it fixes the buffer and the completion callback. -/
inductive DmaKind where
  | program
  | read
  deriving DecidableEq, Repr

/-- The direction of a block transfer (R127). -/
inductive DmaDir where
  | toCard
  | fromCard
  deriving DecidableEq, Repr

/-- The direction of each kind: "`ToCard` for `Program`, `FromCard` for `Read`" (R127). -/
def DmaKind.dir : DmaKind → DmaDir
  | .program => .toCard
  | .read => .fromCard

/-- The length of each kind: "128 for `Program`, 512 for `Read`" (R127, D9). -/
def DmaKind.len : DmaKind → Nat
  | .program => Config.writeBufLen
  | .read => Config.readBufLen

/-- A card-interrupt handler: the only one with a defined meaning is `ClearStatusHandler(speed)` (R129, R216). -/
inductive Handler where
  | clearStatus (speed : Speed)
  deriving DecidableEq, Repr

/-- The 24 operations. -/
inductive Instr where
  -- the six card commands on the wire (41_card_commands.md section 2)
  | identify (c : Channel)
  | status (c : Channel)
  | clearStatusCmd (c : Channel)
  | enableInt (c : Channel) (en : Bool)
  | pageProgram (c : Channel) (o : Offset23)
  | pageRead (c : Channel) (o : Offset23) (dummies : Nat)
  -- the nine host operations (41, 42, 43)
  | getId (c : Channel) (speed : Speed)
  | readStatus (c : Channel) (speed : Speed)
  | clearStatus (c : Channel) (speed : Speed)
  | enableInterrupt (c : Channel) (speed : Speed) (en : Bool)
  | beginProgram (c : Channel) (speed : Speed) (o : Word)
  | beginRead (c : Channel) (speed : Speed) (o : Word) (latencyCycles : Nat)
  | join (c : Channel)
  | waitReady (c : Channel) (speed : Speed)
  | decodeGeometry (c : Channel) (id : IdWord)
  -- the nine bus primitives (40_bus_contract.md)
  | lock (c : Channel) (slot : DeviceSlot)
  | unlock (c : Channel)
  | select (c : Channel) (slot : DeviceSlot) (speed : Speed)
  | deselect (c : Channel)
  | immWrite (c : Channel) (bytes : List Byte)
  | immRead (c : Channel) (n : Nat)
  | dmaTransfer (c : Channel) (kind : DmaKind) (dir : DmaDir) (len : Nat)
  | registerIntHandler (c : Channel) (h : Handler)
  | isAttached (c : Channel)
  deriving DecidableEq, Repr

/-- The channel an operation names. -/
def Instr.channel : Instr → Channel
  | .identify c | .status c | .clearStatusCmd c | .enableInt c _ | .pageProgram c _ | .pageRead c _ _
  | .getId c _ | .readStatus c _ | .clearStatus c _ | .enableInterrupt c _ _ | .beginProgram c _ _
  | .beginRead c _ _ _ | .join c | .waitReady c _ | .decodeGeometry c _
  | .lock c _ | .unlock c | .select c _ _ | .deselect c | .immWrite c _ | .immRead c _
  | .dmaTransfer c _ _ _ | .registerIntHandler c _ | .isAttached c => c

/-- May the main flow call the operation directly (R120, R223)? True of the nine host operations,
`REGISTER_INT_HANDLER` and `IS_ATTACHED`; false of the other seven primitives, which it reaches only through host
operations, and of a wire command sent by itself. -/
def Instr.mainFlow : Instr → Bool
  | .identify _ | .status _ | .clearStatusCmd _ | .enableInt _ _ | .pageProgram _ _ | .pageRead _ _ _ => false
  | .getId _ _ | .readStatus _ _ | .clearStatus _ _ | .enableInterrupt _ _ _ | .beginProgram _ _ _
  | .beginRead _ _ _ _ | .join _ | .waitReady _ _ | .decodeGeometry _ _ => true
  | .lock _ _ | .unlock _ | .select _ _ _ | .deselect _ | .immWrite _ _ | .immRead _ _
  | .dmaTransfer _ _ _ _ => false
  | .registerIntHandler _ _ | .isAttached _ => true

end Sys2Proof
end

