-- ==== Sys2Proof/WellFormed.lean ====
section
/-! DEFINITION. Which terms of `Instr` are operations of MCPB: the operand ranges of R103, R126
and R127. -/

namespace Sys2Proof

/-- The handler's speed is a member of the enumeration (R129). -/
def Handler.wf : Handler → Bool
  | .clearStatus sp => sp.wf

/-- Operand ranges. `IMM_READ` has "count `n >= 1`" (R126); of `DMA_TRANSFER` "no other combination of `kind`,
`dir`, `len` is ever issued" (R127); speeds and slots are members of their enumerations (R5). -/
def Instr.wf : Instr → Bool
  | .identify _ | .status _ | .clearStatusCmd _ | .enableInt _ _ | .pageProgram _ _ | .pageRead _ _ _ => true
  | .getId _ sp | .readStatus _ sp | .clearStatus _ sp | .enableInterrupt _ sp _ => sp.wf
  | .beginProgram _ sp _ => sp.wf
  | .beginRead _ sp _ _ => sp.wf
  | .join _ => true
  | .waitReady _ sp => sp.wf
  | .decodeGeometry _ _ => true
  | .lock _ slot => slot.wf
  | .unlock _ => true
  | .select _ slot sp => slot.wf && sp.wf
  | .deselect _ => true
  | .immWrite _ _ => true
  | .immRead _ n => decide (1 ≤ n)
  | .dmaTransfer _ kind dir len => decide (dir = kind.dir) && decide (len = kind.len)
  | .registerIntHandler _ h => h.wf
  | .isAttached _ => true

end Sys2Proof
end

