-- ==== Sys2Proof/Decode.lean ====
section
/-! DEFINITION. The wire encoding of 30_encoding.md (command bytes, address field and its inverse), the model's own
layout of a call (select code of R104 followed by operand bytes, log 3), the decoder, total on any bytes and rejecting
by name, and after it the encoder. -/

namespace Sys2Proof

/-! ### The address field (R96, R98) -/

/-- `AddrEncode(o)`, the four masks of R96. -/
def addrEncode (o : Word) : List Byte :=
  [((o >>> 17) &&& 0x3F).setWidth 8,
   ((o >>> 9) &&& 0xFF).setWidth 8,
   ((o >>> 7) &&& 0x03).setWidth 8,
   (o &&& 0x7F).setWidth 8]

/-- `AddrDecode([b0, b1, b2, b3])`, a 23-bit value (R98). -/
def addrDecode (b0 b1 b2 b3 : Byte) : Offset23 :=
  (((b0 &&& 0x3F).setWidth 23) <<< 17) ||| ((b1.setWidth 23) <<< 9)
    ||| (((b2 &&& 0x03).setWidth 23) <<< 7) ||| ((b3 &&& 0x7F).setWidth 23)

/-- `AddrDecode` of a byte sequence; a sequence too short to hold an address field reads as zero bytes, a case no
command reaches (R100). -/
def addrOf (bs : List Byte) : Offset23 :=
  addrDecode (bs.getD 0 0) (bs.getD 1 0) (bs.getD 2 0) (bs.getD 3 0)

/-! ### The six command byte sequences (R90 to R95) -/

/-- The byte sequence of IDENTIFY, format F2P (R94). -/
def cmdIdentify : List Byte := [0x85, Config.pad]

/-- The byte sequence of STATUS, format F2P (R94). -/
def cmdStatus : List Byte := [0x83, Config.pad]

/-- The byte sequence of CLEAR_STATUS, format F1 (R90). -/
def cmdClearStatus : List Byte := [0x89]

/-- `EncEnable(en)`, format F2E (R95). -/
def cmdEnableInt (en : Bool) : List Byte := [0x81, if en then 0x01 else 0x00]

/-- The byte sequence of PAGE_PROGRAM, format F5A (R96). -/
def cmdPageProgram (o : Word) : List Byte := 0xF2 :: addrEncode o

/-- The byte sequence of PAGE_READ, format F5A (R96). -/
def cmdPageRead (o : Word) : List Byte := 0x52 :: addrEncode o

/-! ### Rows and their first bytes (R93, R104) -/

/-- The rows of opcode_table.json. -/
inductive Row where
  | identify | status | clearStatusCmd | enableInt | pageProgram | pageRead
  | getId | readStatus | clearStatus | enableInterrupt | beginProgram | beginRead | join | waitReady | decodeGeometry
  | lock | unlock | select | deselect | immWrite | immRead | dmaTransfer | registerIntHandler | isAttached
  deriving DecidableEq, Repr

/-- The three decode spaces (R104): "told apart by where the bits appear (on the wire, or as the select code of a call),
never by the bits themselves". -/
inductive DecodeSpace where
  | wire
  | hostOp
  | busOp
  deriving DecidableEq, Repr

/-- The decode space of each row (R104, the table's `kind`). -/
def Row.space : Row → DecodeSpace
  | .identify | .status | .clearStatusCmd | .enableInt | .pageProgram | .pageRead => .wire
  | .getId | .readStatus | .clearStatus | .enableInterrupt | .beginProgram | .beginRead | .join | .waitReady
  | .decodeGeometry => .hostOp
  | .lock | .unlock | .select | .deselect | .immWrite | .immRead | .dmaTransfer | .registerIntHandler
  | .isAttached => .busOp

/-- The first byte of each row: the opcode on the wire (R93) or the select code of the call (R104). -/
def Row.code : Row → Byte
  | .identify => 0x85
  | .status => 0x83
  | .clearStatusCmd => 0x89
  | .enableInt => 0x81
  | .pageProgram => 0xF2
  | .pageRead => 0x52
  | .getId => 0x00
  | .readStatus => 0x01
  | .clearStatus => 0x02
  | .enableInterrupt => 0x03
  | .beginProgram => 0x04
  | .beginRead => 0x05
  | .join => 0x06
  | .waitReady => 0x07
  | .decodeGeometry => 0x08
  | .lock => 0x10
  | .unlock => 0x11
  | .select => 0x12
  | .deselect => 0x13
  | .immWrite => 0x14
  | .immRead => 0x15
  | .dmaTransfer => 0x16
  | .registerIntHandler => 0x17
  | .isAttached => 0x18

/-- The rows in the table's order. -/
def Row.all : List Row :=
  [.identify, .status, .clearStatusCmd, .enableInt, .pageProgram, .pageRead] ++
  [.getId, .readStatus, .clearStatus, .enableInterrupt, .beginProgram, .beginRead, .join, .waitReady, .decodeGeometry]
  ++ [.lock, .unlock, .select, .deselect, .immWrite, .immRead, .dmaTransfer, .registerIntHandler, .isAttached]

/-- The row of a decode space whose first byte is `b`, if any: "Every other select code is unassigned and refused"
(R104, R101). -/
def rowOf (k : DecodeSpace) (b : Byte) : Option Row := Row.all.find? (fun r => r.space == k && r.code == b)

/-- The row an operation belongs to. -/
def Instr.row : Instr → Row
  | .identify _ => .identify
  | .status _ => .status
  | .clearStatusCmd _ => .clearStatusCmd
  | .enableInt _ _ => .enableInt
  | .pageProgram _ _ => .pageProgram
  | .pageRead _ _ _ => .pageRead
  | .getId _ _ => .getId
  | .readStatus _ _ => .readStatus
  | .clearStatus _ _ => .clearStatus
  | .enableInterrupt _ _ _ => .enableInterrupt
  | .beginProgram _ _ _ => .beginProgram
  | .beginRead _ _ _ _ => .beginRead
  | .join _ => .join
  | .waitReady _ _ => .waitReady
  | .decodeGeometry _ _ => .decodeGeometry
  | .lock _ _ => .lock
  | .unlock _ => .unlock
  | .select _ _ _ => .select
  | .deselect _ => .deselect
  | .immWrite _ _ => .immWrite
  | .immRead _ _ => .immRead
  | .dmaTransfer _ _ _ _ => .dmaTransfer
  | .registerIntHandler _ _ => .registerIntHandler
  | .isAttached _ => .isAttached

/-! ### Reading operands -/

/-- Why bytes are no operation. -/
inductive DecodeError where
  /-- There are no bytes at all. -/
  | empty
  /-- The first byte is no opcode (R93) or no select code (R104) of the space it stands in. -/
  | unassigned (b : Byte)
  /-- The bytes end before the operation does (R100). -/
  | truncated
  /-- A reserved bit of format F2E or F5A is one (R99): MCPB never sends it. -/
  | reservedBits
  /-- The channel byte is neither 0 nor 1 (R4). -/
  | badChannel (b : Byte)
  /-- A Boolean, kind, direction or length byte is neither 0 nor 1. -/
  | badChoice (b : Byte)
  /-- A byte that is not zero stands after the operation's last operand. -/
  | trailing
  deriving DecidableEq, Repr

/-- The next byte. -/
def takeByte : List Byte → Except DecodeError (Byte × List Byte)
  | [] => .error .truncated
  | b :: bs => .ok (b, bs)

/-- A Boolean operand: 0 or 1 (R95 for the enable flag; log 3 for the others). -/
def takeBool : List Byte → Except DecodeError (Bool × List Byte)
  | [] => .error .truncated
  | b :: bs => if b = 0 then .ok (false, bs) else if b = 1 then .ok (true, bs) else .error (.badChoice b)

/-- The channel operand: 0 or 1 (R4). -/
def takeChannel : List Byte → Except DecodeError (Channel × List Byte)
  | [] => .error .truncated
  | b :: bs => if b = 0 then .ok (.ch0, bs) else if b = 1 then .ok (.ch1, bs) else .error (.badChannel b)

/-- A natural number of any size (R103 "natural numbers", N26), the model's own form (log 3): a byte below 128 is itself
and ends the number; a byte `b` of 128 or more stands for `b + 128 * n`, where `n` is the number that follows it. Every
number has exactly one form. -/
def takeNat : List Byte → Except DecodeError (Nat × List Byte)
  | [] => .error .truncated
  | b :: bs =>
    if b.toNat < 128 then .ok (b.toNat, bs)
    else match takeNat bs with
      | .ok (n, rest) => .ok (b.toNat + 128 * n, rest)
      | .error e => .error e

/-- The slot of a number: 0 is CARD_SLOT, k + 1 the other slot number k (log 3). -/
def slotOf : Nat → DeviceSlot
  | 0 => .card
  | k + 1 => .other k

/-- The device-slot operand (log 3). -/
def takeSlot (bs : List Byte) : Except DecodeError (DeviceSlot × List Byte) := do
  let (n, bs) ← takeNat bs
  return (slotOf n, bs)

/-- The speed operand: its index (log 3). -/
def takeSpeed (bs : List Byte) : Except DecodeError (Speed × List Byte) := do
  let (n, bs) ← takeNat bs
  return (⟨n⟩, bs)

/-- A 16-bit operand, most significant byte first. -/
def take16 : List Byte → Except DecodeError (BitVec 16 × List Byte)
  | b1 :: b0 :: bs => .ok (b1 ++ b0, bs)
  | _ => .error .truncated

/-- A 32-bit operand, most significant byte first. -/
def take32 : List Byte → Except DecodeError (BitVec 32 × List Byte)
  | b3 :: b2 :: b1 :: b0 :: bs => .ok (b3 ++ b2 ++ b1 ++ b0, bs)
  | _ => .error .truncated

/-- `n` bytes. -/
def takeBytes (n : Nat) (bs : List Byte) : Except DecodeError (List Byte × List Byte) :=
  if bs.length < n then .error .truncated else .ok (bs.take n, bs.drop n)

/-- The pad byte of IDENTIFY and STATUS: "a receiver ignores its value" (R94). -/
def takePad : List Byte → Except DecodeError (List Byte)
  | [] => .error .truncated
  | _ :: bs => .ok bs

/-- The enable byte of format F2E: bits 7:1 are reserved and zero (R92, R99). -/
def takeEnable : List Byte → Except DecodeError (Bool × List Byte)
  | [] => .error .truncated
  | b :: bs => if b &&& 0xFE = 0 then .ok (b.getLsbD 0, bs) else .error .reservedBits

/-- The address field of format F5A: its nine reserved bits are zero (R92, R99). -/
def takeAddr : List Byte → Except DecodeError (Offset23 × List Byte)
  | b0 :: b1 :: b2 :: b3 :: bs =>
    if b0 &&& 0xC0 = 0 ∧ b2 &&& 0xFC = 0 ∧ b3 &&& 0x80 = 0 then .ok (addrDecode b0 b1 b2 b3, bs)
    else .error .reservedBits
  | _ => .error .truncated

/-- A DMA kind: 0 program, 1 read (log 3). -/
def dmaKindOf (b : Bool) : DmaKind := if b then .read else .program

/-- A DMA direction: 0 to the card, 1 from the card (log 3). -/
def dmaDirOf (b : Bool) : DmaDir := if b then .fromCard else .toCard

/-- A DMA length: 0 for 128 bytes, 1 for 512 bytes (log 3). -/
def dmaLenOf (b : Bool) : Nat := if b then Config.readBufLen else Config.writeBufLen

/-- The operands that follow the first byte of each row. -/
def parse (r : Row) (bs : List Byte) : Except DecodeError (Instr × List Byte) :=
  match r with
  | .identify => do
    let bs ← takePad bs
    let (c, bs) ← takeChannel bs
    return (.identify c, bs)
  | .status => do
    let bs ← takePad bs
    let (c, bs) ← takeChannel bs
    return (.status c, bs)
  | .clearStatusCmd => do
    let (c, bs) ← takeChannel bs
    return (.clearStatusCmd c, bs)
  | .enableInt => do
    let (en, bs) ← takeEnable bs
    let (c, bs) ← takeChannel bs
    return (.enableInt c en, bs)
  | .pageProgram => do
    let (o, bs) ← takeAddr bs
    let (c, bs) ← takeChannel bs
    return (.pageProgram c o, bs)
  | .pageRead => do
    let (o, bs) ← takeAddr bs
    let (c, bs) ← takeChannel bs
    let (n, bs) ← takeNat bs
    return (.pageRead c o n, bs)
  | .getId => do
    let (c, bs) ← takeChannel bs
    let (sp, bs) ← takeSpeed bs
    return (.getId c sp, bs)
  | .readStatus => do
    let (c, bs) ← takeChannel bs
    let (sp, bs) ← takeSpeed bs
    return (.readStatus c sp, bs)
  | .clearStatus => do
    let (c, bs) ← takeChannel bs
    let (sp, bs) ← takeSpeed bs
    return (.clearStatus c sp, bs)
  | .enableInterrupt => do
    let (c, bs) ← takeChannel bs
    let (sp, bs) ← takeSpeed bs
    let (en, bs) ← takeBool bs
    return (.enableInterrupt c sp en, bs)
  | .beginProgram => do
    let (c, bs) ← takeChannel bs
    let (sp, bs) ← takeSpeed bs
    let (o, bs) ← take32 bs
    return (.beginProgram c sp o, bs)
  | .beginRead => do
    let (c, bs) ← takeChannel bs
    let (sp, bs) ← takeSpeed bs
    let (o, bs) ← take32 bs
    let (n, bs) ← takeNat bs
    return (.beginRead c sp o n, bs)
  | .join => do
    let (c, bs) ← takeChannel bs
    return (.join c, bs)
  | .waitReady => do
    let (c, bs) ← takeChannel bs
    let (sp, bs) ← takeSpeed bs
    return (.waitReady c sp, bs)
  | .decodeGeometry => do
    let (c, bs) ← takeChannel bs
    let (id, bs) ← take16 bs
    return (.decodeGeometry c id, bs)
  | .lock => do
    let (c, bs) ← takeChannel bs
    let (slot, bs) ← takeSlot bs
    return (.lock c slot, bs)
  | .unlock => do
    let (c, bs) ← takeChannel bs
    return (.unlock c, bs)
  | .select => do
    let (c, bs) ← takeChannel bs
    let (slot, bs) ← takeSlot bs
    let (sp, bs) ← takeSpeed bs
    return (.select c slot sp, bs)
  | .deselect => do
    let (c, bs) ← takeChannel bs
    return (.deselect c, bs)
  | .immWrite => do
    let (c, bs) ← takeChannel bs
    let (n, bs) ← takeNat bs
    let (d, bs) ← takeBytes n bs
    return (.immWrite c d, bs)
  | .immRead => do
    let (c, bs) ← takeChannel bs
    let (n, bs) ← takeNat bs
    return (.immRead c (n + 1), bs)
  | .dmaTransfer => do
    let (c, bs) ← takeChannel bs
    let (k, bs) ← takeBool bs
    let (d, bs) ← takeBool bs
    let (l, bs) ← takeBool bs
    return (.dmaTransfer c (dmaKindOf k) (dmaDirOf d) (dmaLenOf l), bs)
  | .registerIntHandler => do
    let (c, bs) ← takeChannel bs
    let (sp, bs) ← takeSpeed bs
    return (.registerIntHandler c (.clearStatus sp), bs)
  | .isAttached => do
    let (c, bs) ← takeChannel bs
    return (.isAttached c, bs)

/-- The decoder: the operation at the front of a byte sequence that stands in a decode space, and the bytes after it. -/
def decode (k : DecodeSpace) : List Byte → Except DecodeError (Instr × List Byte)
  | [] => .error .empty
  | b :: bs =>
    match rowOf k b with
    | none => .error (.unassigned b)
    | some r => parse r bs

/-- The operation of one call: bytes after its last operand must be zero (padding). -/
def decodeCall (k : DecodeSpace) (words : List Byte) : Except DecodeError Instr :=
  match decode k words with
  | .error e => .error e
  | .ok (i, rest) => if rest.all (· == 0) then .ok i else .error .trailing

/-! ### The table's numbering (R92) -/

/-- The low `n` bytes of `w`, most significant first: a command "read as one unsigned number whose most significant
byte is `B0`" (R92). -/
def beBytes : Nat → Nat → List Byte
  | 0, _ => []
  | n + 1, w => BitVec.ofNat 8 (w >>> (8 * n)) :: beBytes n w

/-- The words of a call that begins with the table's `nbits` bits `w`, operand bytes of zeros after them, as
many as any operation takes. -/
def tableWords (nbits w : Nat) : List Byte := beBytes (nbits / 8) w ++ List.replicate 10 0

/-- The decode space in which a table word stands. The host's question gives the bits and not the place, so the answer is
the space of the row that has this first byte; no two rows share one (log 4). -/
def tableSpace (nbits w : Nat) : DecodeSpace :=
  match Row.all.find? (fun r => (tableWords nbits w).head? == some r.code) with
  | some r => r.space
  | none => .wire

/-- The operation the decoder reads from a row's bits (log 4). -/
def decodeTableWord (nbits w : Nat) : Option Instr :=
  match decodeCall (tableSpace nbits w) (tableWords nbits w) with
  | .ok i => some i
  | .error _ => none

/-! ### The encoder -/

/-- The byte of a channel. -/
def encChannel : Channel → Byte
  | .ch0 => 0
  | .ch1 => 1

/-- The byte of a Boolean. -/
def encBool (b : Bool) : Byte := if b then 1 else 0

/-- The bytes of a natural number; `fuel` bounds how many stand before the last. -/
def encNatFrom : Nat → Nat → List Byte
  | 0, n => [BitVec.ofNat 8 n]
  | fuel + 1, n =>
    if n < 128 then [BitVec.ofNat 8 n] else BitVec.ofNat 8 (128 + n % 128) :: encNatFrom fuel (n / 128 - 1)

/-- The bytes of a natural number (log 3). -/
def encNat (n : Nat) : List Byte := encNatFrom n n

/-- The bytes of a device slot. -/
def encSlot : DeviceSlot → List Byte
  | .card => encNat 0
  | .other k => encNat (k + 1)

/-- The bytes of a speed. -/
def encSpeed (sp : Speed) : List Byte := encNat sp.index

/-- The bytes of a 16-bit operand. -/
def enc16 (v : BitVec 16) : List Byte := [v.extractLsb' 8 8, v.extractLsb' 0 8]

/-- The bytes of a 32-bit operand. -/
def enc32 (v : BitVec 32) : List Byte :=
  [v.extractLsb' 24 8, v.extractLsb' 16 8, v.extractLsb' 8 8, v.extractLsb' 0 8]

/-- The byte of a DMA kind. -/
def encKind : DmaKind → Byte
  | .program => 0
  | .read => 1

/-- The byte of a DMA direction. -/
def encDir : DmaDir → Byte
  | .toCard => 0
  | .fromCard => 1

/-- The byte of a DMA length. -/
def encLen (n : Nat) : Byte := if n = Config.readBufLen then 1 else 0

/-- The words of an operation: the wire bytes of a command (R90 to R96) or the select code of a call (R104), then
the operands the spec gives no bits (log 3). -/
def encode : Instr → List Byte
  | .identify c => cmdIdentify ++ [encChannel c]
  | .status c => cmdStatus ++ [encChannel c]
  | .clearStatusCmd c => cmdClearStatus ++ [encChannel c]
  | .enableInt c en => cmdEnableInt en ++ [encChannel c]
  | .pageProgram c o => cmdPageProgram (o.setWidth 32) ++ [encChannel c]
  | .pageRead c o n => cmdPageRead (o.setWidth 32) ++ encChannel c :: encNat n
  | .getId c sp => [0x00, encChannel c] ++ encSpeed sp
  | .readStatus c sp => [0x01, encChannel c] ++ encSpeed sp
  | .clearStatus c sp => [0x02, encChannel c] ++ encSpeed sp
  | .enableInterrupt c sp en => [0x03, encChannel c] ++ (encSpeed sp ++ [encBool en])
  | .beginProgram c sp o => [0x04, encChannel c] ++ (encSpeed sp ++ enc32 o)
  | .beginRead c sp o n => [0x05, encChannel c] ++ (encSpeed sp ++ (enc32 o ++ encNat n))
  | .join c => [0x06, encChannel c]
  | .waitReady c sp => [0x07, encChannel c] ++ encSpeed sp
  | .decodeGeometry c id => [0x08, encChannel c] ++ enc16 id
  | .lock c slot => [0x10, encChannel c] ++ encSlot slot
  | .unlock c => [0x11, encChannel c]
  | .select c slot sp => [0x12, encChannel c] ++ (encSlot slot ++ encSpeed sp)
  | .deselect c => [0x13, encChannel c]
  | .immWrite c d => [0x14, encChannel c] ++ (encNat d.length ++ d)
  | .immRead c n => [0x15, encChannel c] ++ encNat (n - 1)
  | .dmaTransfer c k d l => [0x16, encChannel c, encKind k, encDir d, encLen l]
  | .registerIntHandler c (.clearStatus sp) => [0x17, encChannel c] ++ encSpeed sp
  | .isAttached c => [0x18, encChannel c]

/-- The decode space an operation's words stand in (R104). -/
def Instr.space (i : Instr) : DecodeSpace := i.row.space

end Sys2Proof
end

