-- ==== Sys2Proof/Machine/State.lean ====
section
/-! DEFINITION. The state of MCPB (10_state.md R20, R48, R55), the environment the model holds outside the block (R48,
R76), the main flow and the schedule of the agents (R9), the stops, and the state after reset. All plain data. -/

namespace Sys2Proof.Machine

/-! ### Values of the block (R20) -/

/-- The derived card geometry record (R21). -/
structure Geometry where
  sizeMB : Word
  latency : Word
  sectorSize : Word
  blockCount : Word
  deriving DecidableEq, Repr

/-- `geom[c]` (R21). -/
inductive Geom where
  | underived
  | undefined
  | valid (g : Geometry)
  deriving DecidableEq, Repr

/-- `fsm[c]` (R33). -/
inductive Fsm where
  | idle
  | commandSent
  | awaitingDMA
  deriving DecidableEq, Repr

/-- The chip-select of an open transaction (R32). -/
structure Selection where
  slot : DeviceSlot
  speed : Speed
  deriving DecidableEq, Repr

/-- The record of the DMA in flight (R35). -/
structure Dma where
  kind : DmaKind
  dir : DmaDir
  len : Nat
  performed : Bool
  deriving DecidableEq, Repr

/-- The bus events of R131. -/
inductive BusEvent where
  | lock (slot : DeviceSlot)
  | unlock
  | select (slot : DeviceSlot) (speed : Speed)
  | deselect
  | immWrite (bytes : List Byte)
  | immRead (bytes : List Byte)
  | dmaIssue (kind : DmaKind) (dir : DmaDir) (len : Nat)
  | dmaData (dir : DmaDir) (bytes : List Byte)
  | dmaComplete (kind : DmaKind)
  deriving DecidableEq, Repr

/-- The block's state of one channel (R20). `wbufRaced` and `rbufRaced` are the model's own record of the stores that
R70 makes draws (logs 21, 22). -/
structure Chan where
  geom : Geom
  programDone : Bool
  readDone : Bool
  lockOwner : Option DeviceSlot
  sel : Option Selection
  fsm : Fsm
  intHandler : Option Handler
  dma : Option Dma
  wbuf : List Host.Cell
  rbuf : List Host.Cell
  trace : List BusEvent
  wbufRaced : List Nat
  rbufRaced : List Nat
  deriving DecidableEq, Repr

/-! ### The environment of one channel (R48, R75 to R79) -/

/-- How the card answers (R75): every byte it sends is a draw, or it is the reference card CardRef. -/
inductive CardModel where
  | unconstrained
  | reference
  deriving DecidableEq, Repr

/-- What follows the listed part of a status script (R76 "a finite or infinite list", log 19). -/
inductive ScriptTail where
  /-- Nothing: the script was finite, and "when the list is empty the answer is `READY_MASK`". -/
  | ready
  /-- The given values, over and over, for ever. -/
  | cycle (first : Byte) (rest : List Byte)
  /-- The entries of an arbitrary endless list, from number `n` on. -/
  | endless (n : Nat)
  deriving DecidableEq, Repr

/-- `statusScript[c]` (R76): the values that successive STATUS commands consume from the front. -/
structure StatusScript where
  head : List Byte
  tail : ScriptTail
  deriving DecidableEq, Repr

/-- The card on a channel: R48's environment state, CardRef's script (R76), and what it has seen of the open span
(R77, R78): its first bytes, how many bytes it has received, how many it has sent (since the pad byte of an IDENTIFY or a
STATUS, else since the span began), and how many it had received when the block first read. `content` says which
unspecified content the bytes not listed in `storage` have (logs 13, 47). -/
structure Card where
  model : CardModel
  cardId : IdWord
  intEnable : Bool
  statusScript : StatusScript
  storage : List Host.Cell
  content : Nat
  cmd : List Byte
  received : Nat
  sent : Nat
  readAt : Option Nat
  deriving DecidableEq, Repr

/-- The platform's parameters of a channel's DMA buffers (R65 item 1, D23, log 28): `DMA_ALIGN`, and the addresses at
which the platform placed `WBUF[c]` and `RBUF[c]`. No step changes them. -/
structure Buffers where
  align : Nat
  wbufAt : Nat
  rbufAt : Nat
  deriving DecidableEq, Repr

/-- The environment of one channel: attachment (R48), the environment's choice of a bus error (R132: `some k` makes the
`k`-th next primitive that can fail report one, log 9), the platform's placement of the buffers (R65), the counter of
the free values (R8, log 12), and the card. -/
structure Env where
  attached : Bool
  busErrorIn : Option Nat
  buffers : Buffers
  draws : Nat
  card : Card
  deriving DecidableEq, Repr

/-! ### Results, the main flow, the schedule -/

/-- Result codes (R210). -/
inductive ResultCode where
  | ok
  | errNotAttached
  | errUndefinedGeometry
  | errUnresponsive
  | fatalBus
  | errBusy
  | errProtocol
  deriving DecidableEq, Repr

/-- The value an operation returns with `OK`. -/
inductive Value where
  | unit
  | bool (b : Bool)
  | status (st : Byte)
  | id (w : IdWord)
  | geom (g : Geom)
  | bytes (bs : List Byte)
  | flags (programDone readDone : Bool)
  deriving DecidableEq, Repr

/-- The info recorded with a code (R210's column "Info recorded"). -/
inductive Info where
  | nothing
  | channel (c : Channel)
  | id (w : IdWord)
  deriving DecidableEq, Repr

/-- What the main flow has been told: nothing yet; its current operation still waits (R8 "await", R190's loop); the
operation returned; or it raised a code. The model's own field (log 5): "the code is the return value and is held
nowhere" (R210). -/
inductive Ret where
  | nothing
  | waiting
  | returned (v : Value)
  | raised (e : ResultCode) (info : Info)
  deriving DecidableEq, Repr

/-- A buffer or state access of the main flow itself (R69, R70, R21, R223). -/
inductive Access where
  | loadRbuf (c : Channel) (i : Nat)
  | loadWbuf (c : Channel) (i : Nat)
  | storeWbuf (c : Channel) (i : Nat) (v : Byte)
  | storeRbuf (c : Channel) (i : Nat) (v : Byte)
  | loadFlags (c : Channel)
  | loadGeom (c : Channel)
  deriving DecidableEq, Repr

/-- One item of the main flow's remaining program (R27, R244): a call, as words in a decode space (R104), or an
access. -/
inductive MainItem where
  | call (space : DecodeSpace) (words : List Byte)
  | access (a : Access)
  deriving DecidableEq, Repr

/-- Which agent steps (R9): the main flow, the DMA engine (R128), the card interrupt (R217), or the environment
(attachment R48; the choice of a bus error R132). `bench` is the model's own agent (log 6): it runs by itself one of the
operations that the main flow reaches only through host operations (R120). -/
inductive AgentStep where
  | mainFlow
  | dmaPerform (c : Channel)
  | dmaComplete (c : Channel)
  | cardInterrupt (c : Channel)
  | attach (c : Channel) (b : Bool)
  | armBusError (c : Channel) (k : Nat)
  | bench (space : DecodeSpace) (words : List Byte)
  deriving DecidableEq, Repr

/-- The whole machine: two channels of the block (R20, R225) and the global `aborted` (R36); the environment of each
channel (R48); the main flow's remaining program, the schedule, and what the main flow was told last. -/
structure State where
  ch0 : Chan
  ch1 : Chan
  aborted : Bool
  env0 : Env
  env1 : Env
  program : List MainItem
  agenda : List AgentStep
  ret : Ret
  deriving DecidableEq, Repr

/-- The byte-addressed spaces of R40. -/
inductive Space where
  | wbuf
  | rbuf
  | card
  deriving DecidableEq, Repr

/-! ### Stops -/

/-- Faults. -/
inductive Fault where
  /-- An access of the main flow to an index that its buffer does not have (R40). Raised by the accesses of
  Machine/Agents.lean, by no operation of `Instr`. Safe: the machine stops where the spec names no such byte. -/
  | noSuchAddress (sp : Space) (a : Nat)
  deriving DecidableEq, Repr

/-- Refusals. -/
inductive Refusal where
  /-- An operation whose meaning is not written yet, raised by arms of `exec` only. Safe. No arm raises it now. -/
  | notModelled (mnemonic : String)
  /-- The words of a call are no operation of the spec (R101, R104), raised by `step`. Safe. -/
  | undecodable (e : DecodeError)
  /-- The words decode to a term with an operand outside its type (R5, R103, R127), raised by `step`. Safe. -/
  | illFormed
  /-- The main flow calls a bus primitive that it reaches only through host operations, or a wire command by itself: "a
  model gives raw use of the first seven by the main flow no meaning (it refuses such a program)" (R120, D3). Also a
  bench that calls an operation of the main flow's (log 6). Raised by `step`. Safe. -/
  | outOfContext
  /-- A primitive inside a completion callback or the interrupt handler is outside its precondition. The code
  `ERR_PROTOCOL` (R120) has no caller there (R216, R221), so the step is refused (log 46). Raised by `step`, in states
  that break R50 only. Safe. -/
  | eventBody
  deriving DecidableEq, Repr

/-! ### Reset (R55, R240) -/

/-- A channel of the block after reset (R55). The write buffer lists nothing: an unlisted byte of it reads as the
ramp (R41, R241). -/
def Chan.reset : Chan where
  geom := .underived
  programDone := true
  readDone := true
  lockOwner := none
  sel := none
  fsm := .idle
  intHandler := none
  dma := none
  wbuf := []
  rbuf := []
  trace := []
  wbufRaced := []
  rbufRaced := []

/-- The card when the run begins. R48, R55 and R240 ("whatever they were") leave every environment element unspecified:
DESIGN CHOICE of the values here (log 17), the disabled interrupt among them (log 16). -/
def Card.reset : Card where
  model := .unconstrained
  cardId := 0
  intEnable := false
  statusScript := ⟨[], .ready⟩
  storage := []
  content := 0
  cmd := []
  received := 0
  sent := 0
  readAt := none

/-- `DMA_ALIGN = 1`, the value R65 item 1 decides; the addresses of the buffers are the model's (log 28). -/
def Buffers.reset : Buffers where
  align := 1
  wbufAt := 0
  rbufAt := 0

/-- The environment when the run begins: DESIGN CHOICE, a card is attached and no bus error is chosen (logs 9, 12,
15). -/
def Env.reset : Env where
  attached := true
  busErrorIn := none
  buffers := Buffers.reset
  draws := 0
  card := Card.reset

/-- The machine right after reset, process start (R55, R240): no operation is pending and no agent is scheduled. -/
def State.reset : State where
  ch0 := Chan.reset
  ch1 := Chan.reset
  aborted := false
  env0 := Env.reset
  env1 := Env.reset
  program := []
  agenda := []
  ret := .nothing

end Sys2Proof.Machine
end

