-- ==== Sys2Proof/Machine/Memory.lean ====
section
/-! DEFINITION. The three byte-addressed spaces of a channel (R40 to R43): each a list of cells in one canonical form,
addresses strictly rising and no entry equal to what an unlisted address reads as. Bytes only (R63). -/

namespace Sys2Proof.Machine

/-- The size of a space (R40, R41, R42, R76). -/
def Memory.size : Space → Nat
  | .wbuf => Config.writeBufLen
  | .rbuf => Config.readBufLen + Config.readExtra
  | .card => Config.cardLen

/-- What an unlisted address reads as: the ramp in the write buffer (R41 "byte i = i mod 256"); no value in the read
buffer and on the card, whose reset contents are unspecified (R42, R43, R55, log 13). -/
def Memory.unlisted : Space → Nat → Option Byte
  | .wbuf, a => some (BitVec.ofNat 8 a)
  | .rbuf, _ => none
  | .card, _ => none

/-- The byte listed at an address, if any. -/
def Memory.lookup : List Host.Cell → Nat → Option Byte
  | [], _ => none
  | (b, v) :: m, a => if a = b then some v else Memory.lookup m a

/-- A byte of a space: `none` where nothing gives it a value. -/
def Memory.read (sp : Space) (m : List Host.Cell) (a : Nat) : Option Byte :=
  match Memory.lookup m a with
  | some v => some v
  | none => Memory.unlisted sp a

/-- Lists a byte at its place among rising addresses. -/
def Memory.put : List Host.Cell → Nat → Byte → List Host.Cell
  | [], a, v => [(a, v)]
  | (b, w) :: m, a, v =>
    if a < b then (a, v) :: (b, w) :: m
    else if a = b then (a, v) :: m
    else (b, w) :: Memory.put m a v

/-- Unlists an address. -/
def Memory.del : List Host.Cell → Nat → List Host.Cell
  | [], _ => []
  | (b, w) :: m, a => if a = b then Memory.del m a else (b, w) :: Memory.del m a

/-- Writes a byte; writing what an unlisted address reads as removes the entry. -/
def Memory.write (sp : Space) (m : List Host.Cell) (a : Nat) (v : Byte) : List Host.Cell :=
  if Memory.unlisted sp a = some v then Memory.del m a else Memory.put m a v

/-- `MemWrite(space, addr, n, v)` (R8): the bytes at `a`, `a + 1`, …, ascending. -/
def Memory.writeBytes (sp : Space) (m : List Host.Cell) (a : Nat) : List Byte → List Host.Cell
  | [] => m
  | v :: vs => Memory.write sp (Memory.writeBytes sp m (a + 1) vs) a v

/-- Writes at each listed address the byte a function of the position gives (used for the draws of R70). -/
def Memory.writeEach (sp : Space) (f : Nat → Byte) : List Nat → List Host.Cell → List Host.Cell
  | [], m => m
  | a :: as, m => Memory.write sp (Memory.writeEach sp f as m) a (f a)

/-- Every address of the list lies above `lo`, addresses rise strictly, and no entry is what an unlisted address reads
as. -/
def Memory.wfFrom (sp : Space) : Nat → List Host.Cell → Bool
  | _, [] => true
  | lo, (a, v) :: m =>
    decide (lo ≤ a) && (!decide (Memory.unlisted sp a = some v)) && Memory.wfFrom sp (a + 1) m

/-- The canonical form. -/
def Memory.wf (sp : Space) (m : List Host.Cell) : Bool := Memory.wfFrom sp 0 m

end Sys2Proof.Machine
end

