-- ==== Sys2Proof/Machine/Ops.lean ====
section
/-! DEFINITION. The named operations over the state: the two halves of a channel, its memory, the free values (R8
"draw"), the trace (R131), the result of a sequence of lines (R8 "raise"), the ONE operation that ends an operation
with a result code (R210, R220: MCPB's only exceptions), and the return from an event body (R221, R222). -/

namespace Sys2Proof.Machine

/-! ### Channels and environments -/

/-- `X[c]` for the block's state (R8). -/
def State.chan (s : State) : Channel → Chan
  | .ch0 => s.ch0
  | .ch1 => s.ch1

/-- `X[c] <- v` for the block's state (R8). -/
def State.setChan (s : State) (c : Channel) (x : Chan) : State :=
  match c with
  | .ch0 => { s with ch0 := x }
  | .ch1 => { s with ch1 := x }

/-- The environment of a channel (R48). -/
def State.env (s : State) : Channel → Env
  | .ch0 => s.env0
  | .ch1 => s.env1

/-- Replaces the environment of a channel. -/
def State.setEnv (s : State) (c : Channel) (e : Env) : State :=
  match c with
  | .ch0 => { s with env0 := e }
  | .ch1 => { s with env1 := e }

/-- Appends one event to `trace[c]` (R131). -/
def State.emit (s : State) (c : Channel) (e : BusEvent) : State :=
  s.setChan c { s.chan c with trace := (s.chan c).trace ++ [e] }

/-- Sets what the main flow was told last. -/
def State.setRet (s : State) (r : Ret) : State := { s with ret := r }

/-- Sets the global fatal mark (R36): `aborted <- true`. -/
def State.abort (s : State) : State := { s with aborted := true }

/-- Replaces the schedule of the agents. -/
def State.setAgenda (s : State) (g : List AgentStep) : State := { s with agenda := g }

/-! ### Memory of a channel -/

/-- What a byte holds that nothing has written: the ramp (R41), or an unspecified value that depends on the address
only (R42, R43, log 13) and, on the card, on which unspecified content it has (`Card.content`). -/
def Memory.initial (sp : Space) (c : Channel) (content a : Nat) : Byte :=
  match sp with
  | .wbuf => BitVec.ofNat 8 a
  | .rbuf => Config.rbufInit c a
  | .card => Config.cardInit c content a

/-- The byte that cells of a space hold at an address, over what the unlisted bytes hold. -/
def Memory.byteAt (sp : Space) (base : Nat → Byte) (m : List Host.Cell) (a : Nat) : Byte :=
  (Memory.read sp m a).getD (base a)

/-- `CARD[c][a]` (R43, R76). -/
def Card.byteAt (k : Card) (c : Channel) (a : Nat) : Byte :=
  Memory.byteAt .card (Memory.initial .card c k.content) k.storage a

/-- The cells of a space of a channel. -/
def State.mem (s : State) (sp : Space) (c : Channel) : List Host.Cell :=
  match sp with
  | .wbuf => (s.chan c).wbuf
  | .rbuf => (s.chan c).rbuf
  | .card => (s.env c).card.storage

/-- The byte at an address of a space of a channel. -/
def State.byteAt (s : State) (sp : Space) (c : Channel) (a : Nat) : Byte :=
  Memory.byteAt sp (Memory.initial sp c (s.env c).card.content) (s.mem sp c) a

/-- `MemRead(space, addr, n)` (R8): `n` bytes in ascending address order. -/
def State.readBytes (s : State) (sp : Space) (c : Channel) (a n : Nat) : List Byte :=
  (List.range n).map fun k => s.byteAt sp c (a + k)

/-! ### Free values -/

/-- The `k`-th next free value of a channel (R8 "draw", log 12). -/
def Env.draw (e : Env) (c : Channel) (k : Nat) : Byte := Config.freeByte c (e.draws + k)

/-- Advances the counter of the free values. -/
def Env.drawn (e : Env) (n : Nat) : Env := { e with draws := e.draws + n }

/-! ### The trace (R131) -/

/-- Merges adjacent `EvImmWrite` events and drops empty ones: two traces are equal when these forms are. -/
def traceNorm : List BusEvent → List BusEvent
  | [] => []
  | .immWrite bs :: es =>
    match traceNorm es with
    | .immWrite cs :: fs => .immWrite (bs ++ cs) :: fs
    | fs => if bs = [] then fs else .immWrite bs :: fs
  | e :: es => e :: traceNorm es

/-- The wire bytes of every span of a trace (R131): the bytes of `EvImmWrite`, `EvImmRead` and `EvDmaData` between an
`EvSelect` and the next `EvDeselect`. The first argument is what the span open now has carried, if one is open. DESIGN
CHOICE (log 29): a span with no `EvDeselect` yet counts as one more, with what it has carried so far. -/
def wireSpans : Option (List Byte) → List BusEvent → List (List Byte)
  | none, [] => []
  | some acc, [] => [acc]
  | _, .select _ _ :: es => wireSpans (some []) es
  | some acc, .deselect :: es => acc :: wireSpans none es
  | some acc, .immWrite bs :: es => wireSpans (some (acc ++ bs)) es
  | some acc, .immRead bs :: es => wireSpans (some (acc ++ bs)) es
  | some acc, .dmaData _ bs :: es => wireSpans (some (acc ++ bs)) es
  | o, _ :: es => wireSpans o es

/-- Replaces byte `i` of the last data a program DMA sent (R70, log 21). -/
def amendSent (i : Nat) (v : Byte) : List BusEvent → List BusEvent
  | [] => []
  | e :: es =>
    if es.any (fun x => match x with | .dmaData .toCard _ => true | _ => false) then e :: amendSent i v es
    else match e with
      | .dmaData .toCard bs => .dmaData .toCard (bs.set i v) :: es
      | _ => e :: es

/-! ### Sequencing lines, raising, returning -/

/-- What lines of pseudocode end in (R8): a value, or a raised code with its info, in the state those lines wrote. -/
inductive Res (α : Type) where
  | ok (a : α) (s : State)
  | raise (e : ResultCode) (info : Info) (s : State)

/-- The lines after these: not run once a line has raised. -/
def Res.andThen {α β : Type} (r : Res α) (k : α → State → Res β) : Res β :=
  match r with
  | .ok a s => k a s
  | .raise e info s => .raise e info s

/-- Taking an exception: the operation ends with its code and info, handed to the caller (R210). No program counter
and no status is saved, no mode changes and control goes to no vector (R221, R223). -/
def State.takeException (s : State) (e : ResultCode) (info : Info) : State := s.setRet (.raised e info)

/-- `return v` (R8): the operation ends with `OK` and the value. -/
def State.returnValue (s : State) (v : Value) : State := s.setRet (.returned v)

/-- `await` with its condition false, or a loop that has not ended (R8, R186, log 7): the operation has not returned. -/
def State.await (s : State) : State := s.setRet .waiting

/-- Is the code the refusal of a request (R215)? -/
def ResultCode.refuses : ResultCode → Bool
  | .errBusy | .errProtocol => true
  | .ok | .errNotAttached | .errUndefinedGeometry | .errUnresponsive | .fatalBus => false

/-- The end of an operation that began in `s` and whose lines raised a code in `t`. A refused request leaves the state
unchanged (R215), whatever lines ran before the refusal (log 45); with any other code "state written by earlier lines
stays written" (R8, R220). -/
def raiseEnd (s : State) (e : ResultCode) (info : Info) (t : State) : State :=
  (if e.refuses then s else t).takeException e info

/-- The end of an operation that began in `s`: exactly one result code (R210). -/
def finish (s : State) (r : Res Value) : Host.Outcome State Fault Refusal :=
  match r with
  | .ok v t => .next (t.returnValue v)
  | .raise e info t => .next (raiseEnd s e info t)

/-- The return from an event body to the main flow: "there is no return instruction and nothing to restore" (R222). A
body has no caller to hand a code to (R216, R221): this is the state in which its last line left the machine. A body
that a bus error ends has set the fatal mark; one that `ERR_PROTOCOL` ends is refused by `eventStep`. -/
def State.runBody (r : Res Unit) : State :=
  match r with
  | .ok _ s => s
  | .raise _ _ s => s

/-- The step of an agent whose event body these lines are (R221). DESIGN CHOICE (log 46): a body that a primitive outside
its precondition ends is a refusal of the step, since "never a silent success" (R120) leaves no other way to say so. -/
def eventStep (r : Res Unit) : Host.Outcome State Fault Refusal :=
  match r with
  | .raise .errProtocol _ _ => .refused .eventBody
  | r => .next (State.runBody r)

/-- The check of an operation's operands, "before any other check; no state change" (R184, R220). -/
def ifFit {α : Type} (ok : Bool) (s : State) (k : Res α) : Res α :=
  if ok then k else .raise .errProtocol .nothing s

/-- The bus reports an error (R132): the global mark is set and the running operation ends with `FATAL_BUS`. -/
def busError {α : Type} (s : State) : Res α := .raise .fatalBus .nothing s.abort

/-- A primitive that may fail by the environment's choice (R132): it reports the error instead of completing, or its
effect `k` takes place. -/
def onBus {α : Type} (c : Channel) (s : State) (k : State → Res α) : Res α :=
  match (s.env c).busErrorIn with
  | none => k s
  | some 0 => busError s
  | some (n + 1) => k (s.setEnv c { s.env c with busErrorIn := some n })

/-- The test with which an operation begins once the fatal mark is set (R36, R140, R182, R189, log 8). -/
def unlessAborted {α : Type} (s : State) (k : Res α) : Res α :=
  if s.aborted then .raise .fatalBus .nothing s else k

end Sys2Proof.Machine
end

