-- ==== Sys2Proof/Machine/Operands.lean ====
section
/-! DEFINITION. The operand forms that are not plain values: the received identification word and status byte (R62,
R66), the dummy bytes of Page Read (R42, R184), and the alignment of the DMA buffers
(R65). -/

namespace Sys2Proof.Machine

/-- `id = (b0 << 8) | b1`: the identification word arrives most significant byte first (R62, D6). -/
def idOfResponse (bs : List Byte) : IdWord :=
  ((bs.getD 0 0).setWidth 16 <<< 8) ||| (bs.getD 1 0).setWidth 16

/-- The single byte of a STATUS response (R66, R146). -/
def statusOfResponse (bs : List Byte) : Byte := bs.getD 0 0

/-- `MemRead(RBUF[c], 512, latencyCycles)`: the dummy bytes come from the extra space (R184, D10). -/
def dummyBytes (s : State) (c : Channel) (latencyCycles : Nat) : List Byte :=
  s.readBytes .rbuf c Config.readBufLen latencyCycles

/-- The longest dummy sequence the extra space holds (R184, I18). -/
def dummiesFit (latencyCycles : Nat) : Bool := decide (latencyCycles ≤ Config.readExtra)

/-- Where the platform placed the buffer of a kind of DMA (R127, R65). -/
def Buffers.place (b : Buffers) : DmaKind → Nat
  | .program => b.wbufAt
  | .read => b.rbufAt

/-- Does the buffer of a kind of DMA keep to `DMA_ALIGN` (R65 item 1)? "a buffer that violates it is a refusal" (log
28). -/
def Env.aligned (e : Env) (kind : DmaKind) : Bool := decide (e.buffers.place kind % e.buffers.align = 0)

end Sys2Proof.Machine
end

