-- ==== Sys2Proof/Machine/Card.lean ====
section
/-! DEFINITION. The card at the other end of the wire (R75 to R79): what it does with the bytes it receives, and what it
answers. The unconstrained card answers draws; the reference card follows R76 to R78. Received commands act on both
(R148 `cardIntEnable`, R149 storage; log 20). In a span whose first byte is no opcode everything the card does is a draw
(R77, R101, log 47). -/

namespace Sys2Proof.Machine

/-- A span begins or ends: "the card forgets the command in progress and the next byte after the next `SELECT` is an
opcode" (R124). -/
def Card.newSpan (k : Card) : Card := { k with cmd := [], received := 0, sent := 0, readAt := none }

/-- The command bytes the card has seen of the open span, once it has received `bytes` too: at most five matter
(R100). -/
def Card.cmdAfter (k : Card) (bytes : List Byte) : List Byte := (k.cmd ++ bytes).take 5

/-- The offset a Page command names (R78, R98). The reserved bits are ignored, as CardRef does (R77); DESIGN CHOICE (log
48): the unconstrained card, for which R99 allows a draw as well, ignores them too. -/
def cmdOffset (cmd : List Byte) : Nat := (addrOf (cmd.drop 1)).toNat

/-- The enable flag after a received operand byte `f` of ENABLE_INT (R148). The bytes 0x02 to 0xFF are reserved (R95):
CardRef enables only on exactly 0x01 (R77), the unconstrained card does either (I10, log 32). -/
def enableAfter (m : CardModel) (f free : Byte) : Bool :=
  if f = 1 then true
  else if f = 0 then false
  else match m with
    | .reference => false
    | .unconstrained => free.getLsbD 0

/-- The part of `bytes` that is page data: the bytes numbered 5 to 132 of the span (R78 "the next 128 bytes"). -/
def dataPart (received : Nat) (bytes : List Byte) : List Byte :=
  (bytes.drop (5 - received)).take (133 - max received 5)

/-- CARD[c] after page data: at a page boundary the bytes themselves, `CARD[c][a + k] <- d[k]`; at any other offset a
draw for each byte of the page that contains it (R78, D23, I19). `free` gives those draws. -/
def storePage (free : Nat → Byte) (storage : List Host.Cell) (o pos : Nat) (bytes : List Byte) : List Host.Cell :=
  if o % 128 = 0 then Memory.writeBytes .card storage (o + pos) bytes
  else Memory.writeBytes .card storage (o - o % 128 + pos) ((List.range bytes.length).map free)

/-- Is the first byte of a span none of the six opcodes (R77 "any other first byte", R101)? -/
def strayCmd (cmd : List Byte) : Bool :=
  match cmd.head? with
  | none => false
  | some op => (rowOf .wire op).isNone

/-- Is the first byte of the open span no opcode? -/
def Card.strays (k : Card) : Bool := strayCmd k.cmd

/-- What the card does to its own state in a span whose first byte is no opcode: "the card's behaviour is a draw for the
rest of the span" (R77, I11). Its interrupt enable becomes a draw, and so does every byte of its storage: nothing is
listed any more, and what an unlisted byte holds is another unspecified content (log 47). -/
def Env.stray (e : Env) (c : Channel) : Env :=
  if e.card.strays then
    { e with
      draws := e.draws + 1
      card := { e.card with intEnable := (e.draw c 0).getLsbD 0, storage := [], content := e.draws + 1 } }
  else e

/-- The card takes the bytes of a command (R77, R78). The counter of the free values advances twice per byte: the first
half is for the bytes themselves where they are draws (R70), the second for what the card makes of them. The answer of
an IDENTIFY or a STATUS is counted from its pad byte on. -/
def Env.accept (e : Env) (c : Channel) (bytes : List Byte) : Env :=
  let k := e.card
  let cmd := k.cmdAfter bytes
  let second := k.received < 2 ∧ 2 ≤ k.received + bytes.length
  let intEnable :=
    if second ∧ cmd.head? = some 0x81 then
      enableAfter k.model (cmd.getD 1 0) (e.draw c (bytes.length + 1 - k.received))
    else k.intEnable
  let storage :=
    if cmd.head? = some 0xF2 then
      storePage (fun i => e.draw c (bytes.length + i)) k.storage (cmdOffset cmd) (max k.received 5 - 5)
        (dataPart k.received bytes)
    else k.storage
  let sent := if second ∧ (cmd.head? = some 0x85 ∨ cmd.head? = some 0x83) then 0 else k.sent
  { e with
    draws := e.draws + 2 * bytes.length
    card := { k with cmd, received := k.received + bytes.length, sent, intEnable, storage } }

/-- The card receives bytes (R77, R78). -/
def Env.receive (e : Env) (c : Channel) (bytes : List Byte) : Env := (e.accept c bytes).stray c

/-! ### What the card answers -/

/-- The value the next STATUS answers (R76). -/
def StatusScript.next (c : Channel) (s : StatusScript) : Byte :=
  match s.head with
  | b :: _ => b
  | [] =>
    match s.tail with
    | .ready => Config.readyMask
    | .cycle b _ => b
    | .endless n => Config.scriptEntry c n

/-- The script once a STATUS has consumed its front (R76). -/
def StatusScript.rest (s : StatusScript) : StatusScript :=
  match s.head with
  | _ :: bs => { s with head := bs }
  | [] =>
    match s.tail with
    | .ready => s
    | .cycle b bs => ⟨bs, .cycle b bs⟩
    | .endless n => ⟨[], .endless (n + 1)⟩

/-- `cardLatency[c] = LAT_TABLE[cardId[c][10:8]]` (R76). -/
def Card.latency (k : Card) : Nat := (Config.latTable (k.cardId.extractLsb' 8 3)).toNat

/-- How many bytes the card had received "when the block starts reading" (R78): at the span's first read. -/
def Card.readStart (k : Card) : Nat := k.readAt.getD k.received

/-- The byte the reference card sends as number `j` of its answer, if R77 and R78 fix one. IDENTIFY answers "the next two
read bytes" after the pad byte and STATUS the next one, whatever else is written (R77); PAGE_READ answers its data if
exactly `cardLatency` dummy bytes had been written when the block started reading, and draws for the whole span
otherwise (R78). Every other byte is a draw (log 24). -/
def Card.refAnswer (k : Card) (c : Channel) (j : Nat) : Option Byte :=
  match k.cmd.head? with
  | none => none
  | some op =>
    if op = 0x85 ∧ 2 ≤ k.received then
      if j = 0 then some (k.cardId.extractLsb' 8 8) else if j = 1 then some (k.cardId.extractLsb' 0 8) else none
    else if op = 0x83 ∧ 2 ≤ k.received then
      if j = 0 then some (k.statusScript.next c) else none
    else if op = 0x52 ∧ k.readStart = 5 + k.latency then
      if j < 512 then some (k.byteAt c ((cmdOffset k.cmd + j) % Config.cardLen)) else none
    else none

/-- The `i`-th next byte the card sends: a draw, unless it is the reference card and the rules fix the byte (R75,
R126). DESIGN CHOICE (log 50): `attached` is not asked, here or in `Env.receive`, so a span on an empty channel is heard
and answered as any other. -/
def Env.answer (e : Env) (c : Channel) (i : Nat) : Byte :=
  match e.card.model with
  | .unconstrained => e.draw c i
  | .reference => (e.card.refAnswer c (e.card.sent + i)).getD (e.draw c i)

/-- "The next `n` bytes the card sends" (R126, R128). -/
def Env.answers (e : Env) (c : Channel) (n : Nat) : List Byte := (List.range n).map (e.answer c)

/-- The environment once the card has sent `n` bytes: a STATUS answer consumes the front of the script (R76). -/
def Env.send (e : Env) (n : Nat) : Env :=
  let k := e.card
  let statusScript :=
    if k.cmd.head? = some 0x83 ∧ 2 ≤ k.received ∧ k.sent = 0 ∧ 0 < n then k.statusScript.rest else k.statusScript
  { e with
    draws := e.draws + n
    card := { k with
      sent := k.sent + n
      readAt := if 0 < n then some k.readStart else k.readAt
      statusScript } }

/-- The environment after the card has sent `n` bytes (R126, R128). -/
def Env.afterSend (e : Env) (c : Channel) (n : Nat) : Env := (e.send n).stray c

end Sys2Proof.Machine
end

