-- ==== Sys2Proof/Machine/Flags.lean ====
section
/-! DEFINITION. The flags: the two completion flags of a channel (R28, R29, R180) and the two named bits of the card
status value (R30). -/

namespace Sys2Proof.Machine

/-- The completion flag of a kind of DMA (R28, R29). -/
def Chan.flag (x : Chan) : DmaKind → Bool
  | .program => x.programDone
  | .read => x.readDone

/-- Writes the completion flag of a kind of DMA. -/
def Chan.setFlag (x : Chan) (k : DmaKind) (b : Bool) : Chan :=
  match k with
  | .program => { x with programDone := b }
  | .read => { x with readDone := b }

/-- "Both flags are true" (R189). -/
def Chan.bothDone (x : Chan) : Bool := x.programDone && x.readDone

/-- The status flag "ready": `st & READY_MASK != 0` (R30, R190). -/
def statusReady (st : Byte) : Bool := st &&& Config.readyMask != 0

/-- The status flag "unlocked" (R30); no rule reads it (N22). -/
def statusUnlocked (st : Byte) : Bool := st &&& Config.unlockedMask != 0

end Sys2Proof.Machine
end

