-- ==== Sys2Proof/Machine/Bus.lean ====
section
/-! DEFINITION. The nine bus primitives of 40_bus_contract.md as shared operations (R121 to R130), and each one's
meaning as an operation the main flow calls by itself (R120, log 6). A primitive outside its precondition raises
`ERR_PROTOCOL` with the state unchanged (R120, I28). -/

namespace Sys2Proof.Machine

/-! ### The primitives -/

/-- `Lock(c, slot)` (R121): a try-lock. -/
def busLock (c : Channel) (slot : DeviceSlot) (s : State) : Bool × State :=
  if (s.chan c).lockOwner = none then
    (true, (s.setChan c { s.chan c with lockOwner := some slot }).emit c (.lock slot))
  else (false, s)

/-- `Unlock(c)` (R122). -/
def busUnlock (c : Channel) (s : State) : Res Unit :=
  if (s.chan c).lockOwner ≠ none ∧ (s.chan c).sel = none then
    .ok () ((s.setChan c { s.chan c with lockOwner := none }).emit c .unlock)
  else .raise .errProtocol .nothing s

/-- `Select(c, slot, speed)` (R123): transition T1 of R185. -/
def busSelect (c : Channel) (slot : DeviceSlot) (speed : Speed) (s : State) : Res Unit :=
  if (s.chan c).lockOwner = some slot ∧ (s.chan c).sel = none then
    onBus c s fun s =>
      .ok () (((s.setChan c { s.chan c with sel := some ⟨slot, speed⟩, fsm := .commandSent }).emit c
        (.select slot speed)).setEnv c { s.env c with card := (s.env c).card.newSpan })
  else .raise .errProtocol .nothing s

/-- `Deselect(c)` (R124): transitions T3 and T4 of R185. -/
def busDeselect (c : Channel) (s : State) : Res Unit :=
  if (s.chan c).sel ≠ none ∧ ((s.chan c).dma = none ∨ (s.chan c).dma.any (·.performed)) then
    onBus c s fun s =>
      .ok () (((s.setChan c { s.chan c with sel := none, fsm := .idle }).emit c .deselect).setEnv c
        { s.env c with card := (s.env c).card.newSpan })
  else .raise .errProtocol .nothing s

/-- `ImmWrite(c, bytes)` (R125): when it returns, the card has received every byte. DESIGN CHOICE (log 44): the card
hears and answers a span of any slot, where R5 says only that CARD_SLOT is the one it answers on. -/
def busImmWrite (c : Channel) (bytes : List Byte) (s : State) : Res Unit :=
  if (s.chan c).sel ≠ none ∧ (s.chan c).dma = none then
    onBus c s fun s => .ok () ((s.emit c (.immWrite bytes)).setEnv c ((s.env c).receive c bytes))
  else .raise .errProtocol .nothing s

/-- `ImmRead(c, n)` (R126), `n >= 1`: the bytes go to the caller and to no state of the block. -/
def busImmRead (c : Channel) (n : Nat) (s : State) : Res (List Byte) :=
  if 1 ≤ n ∧ (s.chan c).sel ≠ none ∧ (s.chan c).dma = none then
    onBus c s fun s =>
      let bytes := (s.env c).answers c n
      .ok bytes ((s.emit c (.immRead bytes)).setEnv c ((s.env c).afterSend c n))
  else .raise .errProtocol .nothing s

/-- `DmaIssue(c, kind, dir, len)` (R127); "no other combination of `kind`, `dir`, `len` is ever issued". A buffer that
violates `DMA_ALIGN` is a refusal (R65 item 1, log 28). -/
def busDmaIssue (c : Channel) (kind : DmaKind) (dir : DmaDir) (len : Nat) (s : State) : Res Unit :=
  if (dir = kind.dir ∧ len = kind.len) ∧ (s.env c).aligned kind = true ∧
      (s.chan c).sel ≠ none ∧ (s.chan c).dma = none ∧ (s.chan c).fsm = .awaitingDMA then
    onBus c s fun s =>
      .ok () ((s.setChan c { s.chan c with dma := some ⟨kind, dir, len, false⟩ }).emit c (.dmaIssue kind dir len))
  else .raise .errProtocol .nothing s

/-- A `Res Unit` as the end of an operation that returns no value. -/
def Res.unit (r : Res Unit) : Res Value := r.andThen fun _ s => .ok .unit s

/-! ### Their meanings as operations -/

/-- `LOCK c, slot` (R121). -/
def execLock (c : Channel) (slot : DeviceSlot) (s : State) : Host.Outcome State Fault Refusal :=
  finish s (unlessAborted s (.ok (.bool (busLock c slot s).1) (busLock c slot s).2))

/-- `UNLOCK c` (R122). -/
def execUnlock (c : Channel) (s : State) : Host.Outcome State Fault Refusal :=
  finish s (unlessAborted s (busUnlock c s).unit)

/-- `SELECT c, slot, speed` (R123). -/
def execSelect (c : Channel) (slot : DeviceSlot) (speed : Speed) (s : State) : Host.Outcome State Fault Refusal :=
  finish s (unlessAborted s (busSelect c slot speed s).unit)

/-- `DESELECT c` (R124). -/
def execDeselect (c : Channel) (s : State) : Host.Outcome State Fault Refusal :=
  finish s (unlessAborted s (busDeselect c s).unit)

/-- `IMM_WRITE c, bytes` (R125). -/
def execImmWrite (c : Channel) (bytes : List Byte) (s : State) : Host.Outcome State Fault Refusal :=
  finish s (unlessAborted s (busImmWrite c bytes s).unit)

/-- `IMM_READ c, n` (R126). -/
def execImmRead (c : Channel) (n : Nat) (s : State) : Host.Outcome State Fault Refusal :=
  finish s (unlessAborted s ((busImmRead c n s).andThen fun bytes s => .ok (.bytes bytes) s))

/-- `DMA_TRANSFER c, kind, dir, len` (R127). -/
def execDmaTransfer (c : Channel) (kind : DmaKind) (dir : DmaDir) (len : Nat) (s : State) :
    Host.Outcome State Fault Refusal :=
  finish s (unlessAborted s (busDmaIssue c kind dir len s).unit)

/-- `REGISTER_INT_HANDLER c, h` (R129): no precondition, no event; once the fatal mark is set, R36 (log 8). -/
def execRegisterIntHandler (c : Channel) (h : Handler) (s : State) : Host.Outcome State Fault Refusal :=
  finish s (unlessAborted s (.ok .unit (s.setChan c { s.chan c with intHandler := some h })))

/-- `IS_ATTACHED c` (R130): "No state change, no trace event, no precondition, no exception". -/
def execIsAttached (c : Channel) (s : State) : Host.Outcome State Fault Refusal :=
  finish s (.ok (.bool (s.env c).attached) s)

end Sys2Proof.Machine
end

