-- ==== Sys2Proof/Machine/Commands.lean ====
section
/-! DEFINITION. The wire sequence of each card command inside an open span (R145 to R150), and its meaning as an
operation of its own: the command's bytes appearing on the wire of its channel (R104). A command sent outside a span,
or while a DMA is in flight, is outside the precondition of its immediate write and raises `ERR_PROTOCOL` (R125, log
36). No command writes a completion flag (R149, R150 "Flags written: none by the command itself"). -/

namespace Sys2Proof.Machine

/-! ### Wire sequences -/

/-- IDENTIFY (R145). -/
def wireIdentify (c : Channel) (s : State) : Res IdWord :=
  (busImmWrite c cmdIdentify s).andThen fun _ s =>
  (busImmRead c 2 s).andThen fun bytes s =>
  .ok (idOfResponse bytes) s

/-- STATUS (R146). -/
def wireStatus (c : Channel) (s : State) : Res Byte :=
  (busImmWrite c cmdStatus s).andThen fun _ s =>
  (busImmRead c 1 s).andThen fun bytes s =>
  .ok (statusOfResponse bytes) s

/-- CLEAR_STATUS (R147). -/
def wireClearStatus (c : Channel) (s : State) : Res Unit := busImmWrite c cmdClearStatus s

/-- ENABLE_INT (R148). -/
def wireEnableInt (c : Channel) (en : Bool) (s : State) : Res Unit := busImmWrite c (cmdEnableInt en) s

/-- The five command bytes are out: transition T2 of R185. -/
def toAwaitingDma (c : Channel) (s : State) : State := s.setChan c { s.chan c with fsm := .awaitingDMA }

/-- PAGE_PROGRAM (R149): the command bytes, then the program DMA is issued. -/
def wirePageProgram (c : Channel) (o : Word) (s : State) : Res Unit :=
  (busImmWrite c (cmdPageProgram o) s).andThen fun _ s =>
  busDmaIssue c .program .toCard Config.writeBufLen (toAwaitingDma c s)

/-- PAGE_READ (R150): the command bytes, the dummy bytes from the extra space, then the read DMA is issued. -/
def wirePageRead (c : Channel) (o : Word) (dummies : Nat) (s : State) : Res Unit :=
  (busImmWrite c (cmdPageRead o) s).andThen fun _ s =>
  (busImmWrite c (dummyBytes s c dummies) (toAwaitingDma c s)).andThen fun _ s =>
  busDmaIssue c .read .fromCard Config.readBufLen s

/-! ### Meanings -/

/-- IDENTIFY on the wire of `c` (R145). DESIGN CHOICE (log 43), here and for the five commands below: in a span that has
already carried bytes the command is sent all the same, and the bytes read are taken for its response, although for the
card it is no command there (R77 "the first byte received is the opcode"). -/
def execIdentify (c : Channel) (s : State) : Host.Outcome State Fault Refusal :=
  finish s (unlessAborted s ((wireIdentify c s).andThen fun w s => .ok (.id w) s))

/-- STATUS on the wire of `c` (R146). -/
def execStatus (c : Channel) (s : State) : Host.Outcome State Fault Refusal :=
  finish s (unlessAborted s ((wireStatus c s).andThen fun st s => .ok (.status st) s))

/-- CLEAR_STATUS on the wire of `c` (R147). -/
def execClearStatusCmd (c : Channel) (s : State) : Host.Outcome State Fault Refusal :=
  finish s (unlessAborted s (wireClearStatus c s).unit)

/-- ENABLE_INT on the wire of `c` (R148). -/
def execEnableInt (c : Channel) (en : Bool) (s : State) : Host.Outcome State Fault Refusal :=
  finish s (unlessAborted s (wireEnableInt c en s).unit)

/-- PAGE_PROGRAM on the wire of `c` (R149). A misplaced buffer is refused as in R183 (R65, log 28). -/
def execPageProgram (c : Channel) (o : Offset23) (s : State) : Host.Outcome State Fault Refusal :=
  finish s (ifFit ((s.env c).aligned .program) s (unlessAborted s (wirePageProgram c (o.setWidth 32) s).unit))

/-- PAGE_READ on the wire of `c` (R150). More dummy bytes than the extra space holds are refused as in R184 (I18), and a
misplaced buffer too (R65, log 28). -/
def execPageRead (c : Channel) (o : Offset23) (dummies : Nat) (s : State) : Host.Outcome State Fault Refusal :=
  finish s (ifFit (dummiesFit dummies && (s.env c).aligned .read) s
    (unlessAborted s (wirePageRead c (o.setWidth 32) dummies s).unit))

end Sys2Proof.Machine
end

