-- ==== Sys2Proof/Machine/HostOps.lean ====
section
/-! DEFINITION. The immediate-only host operations of 41_card_commands.md: the common prologue and epilogue (R140) and
`GET_ID`, `READ_STATUS`, `CLEAR_STATUS`, `ENABLE_INTERRUPT` (R141 to R144). -/

namespace Sys2Proof.Machine

/-- `Open(c, speed)` (R140), its checks in the order of R220. -/
def openSpan (c : Channel) (speed : Speed) (s : State) : Res Unit :=
  unlessAborted s <|
  if (s.env c).attached = false then .raise .errNotAttached (.channel c) s
  else match busLock c .card s with
    | (false, s) => .raise .errBusy (.channel c) s
    | (true, s) => busSelect c .card speed s

/-- `Close(c)` (R140). -/
def closeSpan (c : Channel) (s : State) : Res Unit :=
  (busDeselect c s).andThen fun _ s => busUnlock c s

/-- A command wrapped in a full bus transaction (R140). Its lines are within their preconditions in every state that
keeps R50. In a state that breaks it (a DMA whose span was deselected and unlocked by hand) the line that is not raises
`ERR_PROTOCOL`, and the operation then ends with the state unchanged (R215, `finish`; DEDUCED, log 45). -/
def inSpan {α : Type} (c : Channel) (speed : Speed) (s : State) (body : State → Res α) : Res α :=
  (openSpan c speed s).andThen fun _ s =>
  (body s).andThen fun a s =>
  (closeSpan c s).andThen fun _ s => .ok a s

/-- One status poll (R142), shared with `WAIT_READY` (R190). -/
def readStatusOnce (c : Channel) (speed : Speed) (s : State) : Res Byte := inSpan c speed s (wireStatus c)

/-- `GET_ID c, speed` (R141). -/
def execGetId (c : Channel) (speed : Speed) (s : State) : Host.Outcome State Fault Refusal :=
  finish s ((inSpan c speed s (wireIdentify c)).andThen fun w s => .ok (.id w) s)

/-- `READ_STATUS c, speed` (R142): "every status check re-issues the status command". -/
def execReadStatus (c : Channel) (speed : Speed) (s : State) : Host.Outcome State Fault Refusal :=
  finish s ((readStatusOnce c speed s).andThen fun st s => .ok (.status st) s)

/-- `CLEAR_STATUS c, speed` (R143). -/
def execClearStatus (c : Channel) (speed : Speed) (s : State) : Host.Outcome State Fault Refusal :=
  finish s (inSpan c speed s (wireClearStatus c)).unit

/-- `ENABLE_INTERRUPT c, speed, en` (R144). -/
def execEnableInterrupt (c : Channel) (speed : Speed) (en : Bool) (s : State) : Host.Outcome State Fault Refusal :=
  finish s (inSpan c speed s (wireEnableInt c en)).unit

end Sys2Proof.Machine
end

