-- ==== Sys2Proof/Machine/Synchronizer.lean ====
section
/-! DEFINITION. The transfer synchronizer of 43_transfer_synchronizer.md: the two begin operations (R182 to R184), the
waits (R189, R190), and the completion callbacks (R187, R188). -/

namespace Sys2Proof.Machine

/-- `OpenBegin(c, speed, flag)` (R182). The flag is cleared after the lock is won and before `SELECT` (D5, C5). -/
def openBegin (c : Channel) (speed : Speed) (kind : DmaKind) (s : State) : Res Unit :=
  unlessAborted s <|
  if (s.env c).attached = false then .raise .errNotAttached (.channel c) s
  else if (s.chan c).flag kind = false then .raise .errBusy (.channel c) s
  else match busLock c .card s with
    | (false, s) => .raise .errBusy (.channel c) s
    | (true, s) => busSelect c .card speed (s.setChan c ((s.chan c).setFlag kind false))

/-- `BEGIN_PROGRAM c, speed, o` (R183). A misplaced buffer is refused before any other check (R65 item 1, R220, log
28). -/
def execBeginProgram (c : Channel) (speed : Speed) (o : Word) (s : State) : Host.Outcome State Fault Refusal :=
  finish s (ifFit ((s.env c).aligned .program) s
    ((openBegin c speed .program s).andThen fun _ s => wirePageProgram c o s).unit)

/-- `BEGIN_READ c, speed, o, latencyCycles` (R184): the count is checked "before any other check", and the
place of the buffer with it (R65 item 1, log 28). -/
def execBeginRead (c : Channel) (speed : Speed) (o : Word) (latencyCycles : Nat) (s : State) :
    Host.Outcome State Fault Refusal :=
  finish s (ifFit (dummiesFit latencyCycles && (s.env c).aligned .read) s
    ((openBegin c speed .read s).andThen fun _ s => wirePageRead c o latencyCycles s).unit)

/-- `JOIN c` (R189): while a flag is false the operation waits, with no side effect; only `DmaComplete(c)` lifts the
wait (R213). -/
def execJoin (c : Channel) (s : State) : Host.Outcome State Fault Refusal :=
  .next (if s.aborted then s.takeException .fatalBus .nothing
    else if (s.chan c).bothDone then s.returnValue .unit
    else s.await)

/-- `WAIT_READY c, speed` (R190): one poll per step (R186), and any raise ends the operation with its code. A poll
without the ready bit leaves the operation waiting; there is no bound (R213). -/
def execWaitReady (c : Channel) (speed : Speed) (s : State) : Host.Outcome State Fault Refusal :=
  .next (match readStatusOnce c speed s with
    | .raise e info t => raiseEnd s e info t
    | .ok st t => if statusReady st then t.returnValue .unit else t.await)

/-- The end of the window of R70: the main flow's stores to the read buffer during a read DMA leave draws when it
completes (log 22); those to the write buffer have had their effect on what was sent (log 21). -/
def settleRaces (c : Channel) (kind : DmaKind) (s : State) : State :=
  let x := s.chan c
  let e := s.env c
  match kind with
  | .program => s.setChan c { x with wbufRaced := [] }
  | .read =>
    (s.setChan c { x with
      rbuf := Memory.writeEach .rbuf (e.draw c) x.rbufRaced x.rbuf
      rbufRaced := [] }).setEnv c (e.drawn Config.readBufLen)

/-- The completion callback of a kind of DMA (R187, R188): flag, trace, `dma[c] <- None`, deselect, unlock. -/
def callback (c : Channel) (kind : DmaKind) (s : State) : Res Unit :=
  let s := settleRaces c kind s
  let s := (s.setChan c ((s.chan c).setFlag kind true)).emit c (.dmaComplete kind)
  let s := s.setChan c { s.chan c with dma := none }
  (busDeselect c s).andThen fun _ s => busUnlock c s

end Sys2Proof.Machine
end

