-- ==== Sys2Proof/Machine/Agents.lean ====
section
/-! DEFINITION. The steps that are no operation of the table: the DMA engine (R128, R218), the card interrupt and its
handler (R216, R217), the environment's own choices (R48, R132), and the main flow's accesses to the buffers (R69, R70,
R223). A step whose guard is false changes nothing. -/

namespace Sys2Proof.Machine

/-! ### The DMA engine (R128) -/

/-- What the program DMA sends: `WBUF[c][0..127]`, a draw for each byte stored to since the flag went false (R70). -/
def programData (c : Channel) (s : State) : List Byte :=
  (List.range Config.writeBufLen).map fun i =>
    if i ∈ (s.chan c).wbufRaced then (s.env c).draw c i else s.byteAt .wbuf c i

/-- `dma[c].performed <- true` (R128). -/
def markPerformed (c : Channel) (s : State) : State :=
  s.setChan c { s.chan c with dma := (s.chan c).dma.map fun d => { d with performed := true } }

/-- The data of one direction moves (R128, R61). -/
def moveData (c : Channel) (dir : DmaDir) (s : State) : State :=
  match dir with
  | .toCard =>
    let data := programData c s
    (s.setEnv c ((s.env c).receive c data)).emit c (.dmaData .toCard data)
  | .fromCard =>
    let data := (s.env c).answers c Config.readBufLen
    ((s.setChan c { s.chan c with rbuf := Memory.writeBytes .rbuf (s.chan c).rbuf 0 data }).setEnv c
      ((s.env c).afterSend c Config.readBufLen)).emit c (.dmaData .fromCard data)

/-- `DmaPerform(c)` (R128): enabled while a DMA is issued and not performed and the fatal mark is clear. -/
def dmaPerform (c : Channel) (s : State) : State :=
  match (s.chan c).dma with
  | none => s
  | some d =>
    if s.aborted ∨ d.performed then s
    else State.runBody (onBus c s fun s => .ok () (markPerformed c (moveData c d.dir s)))

/-- The lines of `DmaComplete(c)` (R128): the completion callback of the DMA's kind (R187, R188). -/
def dmaCompleteBody (c : Channel) (s : State) : Res Unit :=
  match (s.chan c).dma with
  | none => .ok () s
  | some d => if s.aborted ∨ d.performed = false then .ok () s else callback c d.kind s

/-- The state in which `DmaComplete(c)` leaves the machine (R128). -/
def dmaComplete (c : Channel) (s : State) : State := State.runBody (dmaCompleteBody c s)

/-! ### The card interrupt (R216, R217) -/

/-- `ClearStatusHandler(speed)` (R216): best effort, silent when the channel is busy. -/
def clearStatusHandler (c : Channel) (speed : Speed) (s : State) : Res Unit :=
  match busLock c .card s with
  | (false, s) => .ok () s
  | (true, s) =>
    (busSelect c .card speed s).andThen fun _ s =>
    (wireClearStatus c s).andThen fun _ s =>
    closeSpan c s

/-- The lines of `CardInterrupt(c)` (R217): the card raises the line only while its enable is set; without a handler, or
once the fatal mark is set, nothing happens; an occurrence that finds the channel locked is lost (R46). -/
def cardInterruptBody (c : Channel) (s : State) : Res Unit :=
  if (s.env c).card.intEnable = false ∨ s.aborted then .ok () s
  else match (s.chan c).intHandler with
    | none => .ok () s
    | some (.clearStatus speed) => clearStatusHandler c speed s

/-- The state in which `CardInterrupt(c)` leaves the machine (R217). -/
def cardInterrupt (c : Channel) (s : State) : State := State.runBody (cardInterruptBody c s)

/-! ### The environment's choices -/

/-- A card is attached to the channel or removed from it (R48, log 26). -/
def setAttached (c : Channel) (b : Bool) (s : State) : State := s.setEnv c { s.env c with attached := b }

/-- The environment chooses that the `k`-th next primitive reports a bus error (R132, log 9). -/
def armBusError (c : Channel) (k : Nat) (s : State) : State := s.setEnv c { s.env c with busErrorIn := some k }

/-! ### The main flow's accesses -/

/-- A load or store of the main flow outside its space faults (R40, log 31). -/
def atIndex (sp : Space) (i : Nat) (t : State) : Host.Outcome State Fault Refusal :=
  if i < Memory.size sp then .next t else .fault (.noSuchAddress sp i)

/-- A load of `RBUF[c][i]`: a draw while `readDone` is false (R69, R45). DESIGN CHOICE (log 42): a read DMA that a bare
PAGE_READ or a raw DMA_TRANSFER issued leaves `readDone` true, and a load during it then gives the stored byte. -/
def loadRbuf (c : Channel) (i : Nat) (s : State) : State :=
  if i < Config.readBufLen ∧ (s.chan c).readDone = false then
    (s.setEnv c ((s.env c).drawn 1)).returnValue (.bytes [(s.env c).draw c 0])
  else s.returnValue (.bytes [s.byteAt .rbuf c i])

/-- The late half of R70 (log 21): once the data has moved, a store during the window makes the byte that was sent, and
the byte the card stored from it, a draw. Byte `i` of the data was the byte numbered `n` of the span. DESIGN CHOICE (log
51): once a raw DESELECT has ended the span the card has forgotten it, and then only the byte of the trace changes. -/
def amendLate (c : Channel) (i : Nat) (s : State) : State :=
  match (s.chan c).dma with
  | some ⟨.program, _, _, true⟩ =>
    let e := s.env c
    let v := e.draw c 0
    let k := e.card
    let a := cmdOffset k.cmd
    let n := k.received - Config.writeBufLen + i
    let storage :=
      if k.cmd.head? = some 0xF2 ∧ a % 128 = 0 ∧ 5 ≤ n ∧ n < 133 then Memory.write .card k.storage (a + (n - 5)) v
      else k.storage
    (s.setChan c { s.chan c with trace := amendSent i v (s.chan c).trace }).setEnv c
      { e.drawn 1 with card := { k with storage } }
  | _ => s

/-- A store to `WBUF[c][i]` (R70): while `programDone[c]` is false it also makes the byte sent a draw. -/
def storeWbuf (c : Channel) (i : Nat) (v : Byte) (s : State) : State :=
  let x := s.chan c
  let t := s.setChan c { x with
    wbuf := Memory.write .wbuf x.wbuf i v
    wbufRaced := if x.programDone then x.wbufRaced else i :: x.wbufRaced }
  (if x.programDone then t else amendLate c i t).returnValue .unit

/-- A store to `RBUF[c][i]` (R70): below 512 while `readDone[c]` is false it leaves a draw when the DMA completes. DESIGN
CHOICE (log 49): in the extra space, whose content I14 leaves open at any time, the byte stays as stored. -/
def storeRbuf (c : Channel) (i : Nat) (v : Byte) (s : State) : State :=
  let x := s.chan c
  (s.setChan c { x with
    rbuf := Memory.write .rbuf x.rbuf i v
    rbufRaced := if x.readDone ∨ Config.readBufLen ≤ i then x.rbufRaced else i :: x.rbufRaced }).returnValue .unit

/-- One access of the main flow; once the fatal mark is set it has no effect (R36, log 37). -/
def runAccess (a : Access) (s : State) : Host.Outcome State Fault Refusal :=
  if s.aborted then .next (s.takeException .fatalBus .nothing)
  else match a with
  | .loadRbuf c i => atIndex .rbuf i (loadRbuf c i s)
  | .loadWbuf c i => atIndex .wbuf i (s.returnValue (.bytes [s.byteAt .wbuf c i]))
  | .storeWbuf c i v => atIndex .wbuf i (storeWbuf c i v s)
  | .storeRbuf c i v => atIndex .rbuf i (storeRbuf c i v s)
  | .loadFlags c => .next (s.returnValue (.flags (s.chan c).programDone (s.chan c).readDone))
  | .loadGeom c => .next (s.returnValue (.geom (s.chan c).geom))

/-! ### Where the main flow's next call stands -/

/-- The main flow's program moves past its first item (R27, log 1). -/
def State.retire (s : State) : State := { s with program := s.program.tail }

/-- An operation that still waits stays the main flow's next item (log 7). -/
def State.retireUnlessWaiting (s : State) : State := if s.ret = .waiting then s else s.retire

/-- The operation of a call in a decode space, if its words are one (R101, R103, R104). -/
def fetchCall (space : DecodeSpace) (words : List Byte) : Except Refusal Instr :=
  match decodeCall space words with
  | .error e => .error (.undecodable e)
  | .ok i => if i.wf then .ok i else .error .illFormed

end Sys2Proof.Machine
end

