-- ==== Sys2Proof/Machine/Geometry.lean ====
section
/-! DEFINITION. The geometry decoder of 42_geometry_decoder.md: the pure function `GeoDecode` (R160 to R165) and the
operation that stores its result (R166). -/

namespace Sys2Proof.Machine

/-- `rotl32(v, n)` for `0 < n < 32` (R7): a circular left rotate. -/
def rotl32 (v : Word) (n : Nat) : Word := (v <<< n) ||| (v >>> (32 - n))

/-- `id32 = zext_32(id)` (R160). -/
def id32 (id : IdWord) : Word := id.setWidth 32

/-- Step 1 (R161). -/
def geoSize (id : IdWord) : Word := (id32 id &&& 0xFC) >>> 3

/-- The latency index of step 2 (R162), "always masked to 3 bits before lookup" (R37). -/
def latIdx (id : IdWord) : BitVec 3 := ((rotl32 (id32 id) 26 &&& 0x1C) >>> 2).setWidth 3

/-- The sector-size index of step 3 (R163). -/
def secIdx (id : IdWord) : BitVec 3 := ((rotl32 (id32 id) 23 &&& 0x1C) >>> 2).setWidth 3

/-- Step 4 (R164): unsigned division, rounding toward zero. -/
def blockCount (sizeMB sectorSize : Word) : Word := ((sizeMB <<< 20) >>> 3) / sectorSize

/-- `GeoDecode(id)` over any two tables (R165): it "reads no state other than the two constant tables". The guard
tests the looked-up value and comes before the division (R163). -/
def geoDecodeFrom (lat sec : BitVec 3 → Word) (id : IdWord) : Geom :=
  if sec (secIdx id) = 0 then .undefined
  else .valid {
    sizeMB := geoSize id
    latency := lat (latIdx id)
    sectorSize := sec (secIdx id)
    blockCount := blockCount (geoSize id) (sec (secIdx id)) }

/-- `GeoDecode(id)` (R165), with the block's own tables (R37, R38). -/
def geoDecode (id : IdWord) : Geom := geoDecodeFrom Config.latTable Config.secTable id

/-- What `DECODE_GEOMETRY` tells its caller (R166): the geometry, or `ERR_UNDEFINED_GEOMETRY` with the `id`. -/
def geometryRet (id : IdWord) : Ret :=
  match geoDecode id with
  | .undefined => .raised .errUndefinedGeometry (.id id)
  | g => .returned (.geom g)

/-- `DECODE_GEOMETRY c, id` (R166): `geom[c]` is written before the raise. It needs no lock and no attachment. Once the
fatal mark is set no step changes block state (R36, log 8). -/
def execDecodeGeometry (c : Channel) (id : IdWord) (s : State) : Host.Outcome State Fault Refusal :=
  .next (if s.aborted then s.takeException .fatalBus .nothing
    else (s.setChan c { s.chan c with geom := geoDecode id }).setRet (geometryRet id))

end Sys2Proof.Machine
end

