-- ==== Sys2Proof/Machine/Dispatch.lean ====
section
/-! DEFINITION. One arm per operation of opcode_table.json. -/

namespace Sys2Proof.Machine

def exec (i : Instr) (s : State) : Host.Outcome State Fault Refusal :=
  match i with
  -- card commands on the wire
  | .identify c => Sys2Proof.Machine.execIdentify c s
  | .status c => Sys2Proof.Machine.execStatus c s
  | .clearStatusCmd c => Sys2Proof.Machine.execClearStatusCmd c s
  | .enableInt c en => Sys2Proof.Machine.execEnableInt c en s
  | .pageProgram c o => Sys2Proof.Machine.execPageProgram c o s
  | .pageRead c o dummies => Sys2Proof.Machine.execPageRead c o dummies s
  -- host operations
  | .getId c speed => Sys2Proof.Machine.execGetId c speed s
  | .readStatus c speed => Sys2Proof.Machine.execReadStatus c speed s
  | .clearStatus c speed => Sys2Proof.Machine.execClearStatus c speed s
  | .enableInterrupt c speed en => Sys2Proof.Machine.execEnableInterrupt c speed en s
  | .beginProgram c speed o => Sys2Proof.Machine.execBeginProgram c speed o s
  | .beginRead c speed o latencyCycles => Sys2Proof.Machine.execBeginRead c speed o latencyCycles s
  | .join c => Sys2Proof.Machine.execJoin c s
  | .waitReady c speed => Sys2Proof.Machine.execWaitReady c speed s
  | .decodeGeometry c id => Sys2Proof.Machine.execDecodeGeometry c id s
  -- bus primitives
  | .lock c slot => Sys2Proof.Machine.execLock c slot s
  | .unlock c => Sys2Proof.Machine.execUnlock c s
  | .select c slot speed => Sys2Proof.Machine.execSelect c slot speed s
  | .deselect c => Sys2Proof.Machine.execDeselect c s
  | .immWrite c bytes => Sys2Proof.Machine.execImmWrite c bytes s
  | .immRead c n => Sys2Proof.Machine.execImmRead c n s
  | .dmaTransfer c kind dir len => Sys2Proof.Machine.execDmaTransfer c kind dir len s
  | .registerIntHandler c h => Sys2Proof.Machine.execRegisterIntHandler c h s
  | .isAttached c => Sys2Proof.Machine.execIsAttached c s

end Sys2Proof.Machine
end

