-- ==== Sys2Proof/Machine/Step.lean ====
section
/-! DEFINITION. One step of the machine (R9): the agent the agenda names, or the main flow when it names none. -/

namespace Sys2Proof.Machine

/-- A step of the main flow: its next item. A call of an operation that is not the main flow's is refused (R120). A
main flow with nothing left stays as it is (R245). -/
def mainStep (s : State) : Host.Outcome State Fault Refusal :=
  match s.program with
  | [] => .next s
  | .access a :: _ =>
    match runAccess a s with
    | .next t => .next t.retire
    | .fault f => .fault f
    | .refused r => .refused r
  | .call space words :: _ =>
    match fetchCall space words with
    | .error r => .refused r
    | .ok i =>
      if i.mainFlow then
        match exec i s with
        | .next t => .next t.retireUnlessWaiting
        | .fault f => .fault f
        | .refused r => .refused r
      else .refused .outOfContext

/-- A step of the bench (log 6): one operation that the main flow may not call by itself. -/
def benchStep (space : DecodeSpace) (words : List Byte) (s : State) : Host.Outcome State Fault Refusal :=
  match fetchCall space words with
  | .error r => .refused r
  | .ok i => if i.mainFlow then .refused .outOfContext else exec i s

/-- One step of one agent (R9; the bench is the model's own, log 6). -/
def agentStep (a : AgentStep) (s : State) : Host.Outcome State Fault Refusal :=
  match a with
  | .mainFlow => mainStep s
  | .dmaPerform c => .next (dmaPerform c s)
  | .dmaComplete c => eventStep (dmaCompleteBody c s)
  | .cardInterrupt c => eventStep (cardInterruptBody c s)
  | .attach c b => .next (setAttached c b s)
  | .armBusError c k => .next (armBusError c k s)
  | .bench space words => benchStep space words s

/-- One step of the machine. -/
def step (s : State) : Host.Outcome State Fault Refusal :=
  match s.agenda with
  | [] => mainStep s
  | a :: rest => agentStep a (s.setAgenda rest)

/-- The state whose next step runs the operation of the table's bits (logs 1, 4): an operation of the main flow's is put
in front of its program and the main flow in front of the schedule; any other is put in front of the schedule as a step
of the bench (log 6). -/
def State.withFetchWord (s : State) (nbits w : Nat) : State :=
  let space := tableSpace nbits w
  let words := tableWords nbits w
  if (decodeTableWord nbits w).any (fun i => !i.mainFlow) then { s with agenda := .bench space words :: s.agenda }
  else { s with program := .call space words :: s.program, agenda := .mainFlow :: s.agenda }

end Sys2Proof.Machine
end

