-- ==== Sys2Proof/Safety.lean ====
section
/-! DEFINITION. What claims about MCPB are stated with: the invariants of R50 and of the memories, the conditions under
which an operation runs normally, what a step keeps, final states (R245), and the duties of software that the block
cannot check (R246 to R257). -/

namespace Sys2Proof.Safety

open Sys2Proof.Machine

/-! ### When operations run normally -/

/-- The channel can take a transaction: the fatal mark is clear, a card is attached, nothing holds or uses the channel
(R140, R182, and R50 items 1 to 3). -/
abbrev ChannelFree (c : Channel) (s : State) : Prop :=
  s.aborted = false ∧ (s.env c).attached = true ∧ (s.chan c).lockOwner = none ∧ (s.chan c).sel = none ∧
    (s.chan c).fsm = .idle ∧ (s.chan c).dma = none

/-- "The environment reports no bus error", the named premise of R132. -/
abbrev NoBusError (c : Channel) (s : State) : Prop := (s.env c).busErrorIn = none

/-- A span is open on the channel and no DMA is in flight: the precondition of an immediate transfer (R125). -/
abbrev SpanOpen (c : Channel) (s : State) : Prop :=
  s.aborted = false ∧ (s.chan c).sel ≠ none ∧ (s.chan c).dma = none

/-! ### What a step keeps -/

/-- Everything outside channel `c` is as before, and so are the fatal mark, the main flow's program and the schedule;
what the main flow was told (`ret`) may differ. -/
def OutsideKept (c : Channel) (s t : State) : Prop :=
  (∀ d, d ≠ c → t.chan d = s.chan d ∧ t.env d = s.env d) ∧
    t.aborted = s.aborted ∧ t.program = s.program ∧ t.agenda = s.agenda

/-- Every byte of the three memories of channel `c` reads as before. -/
def MemoryKept (c : Channel) (s t : State) : Prop := ∀ sp a, t.byteAt sp c a = s.byteAt sp c a

/-- The environment of channel `c` keeps its attachment, its choice of bus errors, the place of the buffers, and its
card's kind, word and interrupt enable. -/
def EnvKept (c : Channel) (s t : State) : Prop :=
  (t.env c).attached = (s.env c).attached ∧ (t.env c).busErrorIn = (s.env c).busErrorIn ∧
    (t.env c).buffers = (s.env c).buffers ∧
    (t.env c).card.model = (s.env c).card.model ∧ (t.env c).card.cardId = (s.env c).card.cardId ∧
    (t.env c).card.intEnable = (s.env c).card.intEnable

/-- The block's state is as before on every channel (R36's "no further step that changes block state"). -/
def BlockKept (s t : State) : Prop := ∀ c, t.chan c = s.chan c

/-- The main flow steps next: nothing else is scheduled, or its turn is scheduled (R9). -/
def MainFlowNext (s : State) : Prop := s.agenda = [] ∨ s.agenda.head? = some .mainFlow

/-- The main flow's next item is a call of the operation `i`. -/
def NextCall (i : Instr) (s : State) : Prop :=
  ∃ space words rest, s.program = .call space words :: rest ∧ fetchCall space words = .ok i

/-! ### Invariants -/

/-- The seven items of R50 for one channel, and the shape of a DMA record (R35, R127). -/
abbrev ChanInv (x : Chan) : Prop :=
  (x.fsm = .idle ↔ x.sel = none) ∧
  (x.sel ≠ none → x.lockOwner ≠ none) ∧
  (x.dma ≠ none → x.fsm = .awaitingDMA) ∧
  (x.programDone = false ↔ x.dma.any (·.kind == .program) = true) ∧
  (x.readDone = false ↔ x.dma.any (·.kind == .read) = true) ∧
  (x.programDone = true ∨ x.readDone = true) ∧
  (x.lockOwner ≠ none ↔ x.dma ≠ none) ∧
  x.dma.all (fun d => d.dir == d.kind.dir && d.len == d.kind.len) = true

/-- No step of the bench is scheduled: the agents are those of R9, and of the operations only those the main flow may
call run by themselves. It is R50's premise, "the main flow uses only host operations (not raw bus primitives)": a main
flow that calls another one is refused (R120). -/
def NoBench (agenda : List AgentStep) : Prop := ∀ space words, AgentStep.bench space words ∉ agenda

/-- R50, between steps: the seven items on both channels while the fatal mark is clear, without the bench. -/
def ProtocolInv (s : State) : Prop :=
  NoBench s.agenda ∧ (s.aborted = false → ∀ c, ChanInv (s.chan c))

/-- Every listed address lies inside the space. -/
def Within (sp : Space) (m : List Host.Cell) : Prop := ∀ cell ∈ m, cell.1 < Memory.size sp

/-- Races are on record only while a flag is false: "a write while `programDone[c]` is true is an ordinary store" (R70,
R74). -/
abbrev RacesInWindow (x : Chan) : Prop :=
  (x.programDone = true → x.wbufRaced = []) ∧ (x.readDone = true → x.rbufRaced = [])

/-- The memories of every channel are in canonical form and inside their spaces, and the recorded races name bytes a
DMA moves and belong to a window that is open (R70). -/
def MemoryInv (s : State) : Prop :=
  ∀ c, (∀ sp, Memory.wf sp (s.mem sp c) = true ∧ Within sp (s.mem sp c)) ∧
    (∀ i ∈ (s.chan c).wbufRaced, i < Config.writeBufLen) ∧ (∀ i ∈ (s.chan c).rbufRaced, i < Config.readBufLen) ∧
    RacesInWindow (s.chan c)

/-! ### Runs -/

/-- A channel with nothing outstanding (R245). -/
abbrev ChanIdle (x : Chan) : Prop :=
  x.programDone = true ∧ x.readDone = true ∧ x.dma = none ∧ x.fsm = .idle ∧ x.lockOwner = none

/-- A final state (R245): the main flow has no operation left, the fatal mark is clear, both channels are idle. -/
abbrev Final (s : State) : Prop :=
  s.program = [] ∧ s.aborted = false ∧ ChanIdle s.ch0 ∧ ChanIdle s.ch1

/-! ### Duties of software (70_reset_and_hazards.md section 3) that the block does not detect -/

/-- R247: the read buffer is read only while `readDone` is true. -/
abbrev MayRead (c : Channel) (i : Nat) (s : State) : Prop := Config.readBufLen ≤ i ∨ (s.chan c).readDone = true

/-- R249: the write buffer is written only while `programDone` is true. -/
abbrev MayWrite (c : Channel) (s : State) : Prop := (s.chan c).programDone = true

/-- R251: the dummy-byte count is the latency of the geometry decoded for the card. -/
def LatencyMatches (c : Channel) (latencyCycles : Nat) (s : State) : Prop :=
  ∃ g, (s.chan c).geom = .valid g ∧ latencyCycles = g.latency.toNat

end Sys2Proof.Safety
end

