-- ==== Sys2Proof/Certificates/Slice0/Obligations.lean ====
section
/-! DEFINITION. The statements about MCPB, each taken from the rules of spec/ its docstring names. Where a statement
rests on a choice of the model, its docstring names the log entry. -/

open Sys2Proof Sys2Proof.Machine Sys2Proof.Safety

/-! ### Encoding (30_encoding.md) -/

/-- R98: the inverse of the address field, written out; the round trip on 23 bits, on every 32-bit offset, and on
every byte quadruple whose reserved bits are zero. -/
def Obligations.AddressFieldAndItsInverse : Prop :=
  (∀ b0 b1 b2 b3 : Byte, (addrDecode b0 b1 b2 b3).toNat =
      ((b0.toNat &&& 0x3F) <<< 17) ||| (b1.toNat <<< 9) ||| ((b2.toNat &&& 0x03) <<< 7) ||| (b3.toNat &&& 0x7F)) ∧
  (∀ o : Word, o.toNat < 2 ^ 23 → (addrOf (addrEncode o)).toNat = o.toNat) ∧
  (∀ o : Word, (addrOf (addrEncode o)).setWidth 32 = o &&& 0x7FFFFF) ∧
  (∀ b0 b1 b2 b3 : Byte, b0 &&& 0xC0 = 0 → b2 &&& 0xFC = 0 → b3 &&& 0x80 = 0 →
      addrEncode ((addrDecode b0 b1 b2 b3).setWidth 32) = [b0, b1, b2, b3])

/-- R97, R92: the bits of the offset that reach the wire, each in its place; the higher bits are discarded, so an
offset addresses itself modulo 2^23. -/
def Obligations.OffsetBitsThatReachTheWire : Prop :=
  ∀ o : Word,
    addrEncode o = [(0 : BitVec 2) ++ o.extractLsb' 17 6, o.extractLsb' 9 8, (0 : BitVec 6) ++ o.extractLsb' 7 2,
      (0 : BitVec 1) ++ o.extractLsb' 0 7] ∧
    addrEncode o = addrEncode (o &&& 0x7FFFFF) ∧
    (addrOf (addrEncode o)).toNat = o.toNat % 2 ^ 23

/-- Decoding the words of a well-formed operation in its decode space gives it back, whatever bytes follow (R90 to R99,
R104; the operand bytes of calls are the model's layout, log 3). -/
def Obligations.DecodeInvertsEncode : Prop :=
  ∀ (i : Instr) (rest : List Byte), i.wf = true → decode i.space (encode i ++ rest) = .ok (i, rest)

/-- Whatever decodes in a decode space is of that space and is the encoding of what it decodes to, but for the pad byte of
IDENTIFY and STATUS, which "a receiver ignores" (R94; the operand bytes of calls are the model's layout, log 3). -/
def Obligations.EncodeInvertsDecode : Prop :=
  ∀ (k : DecodeSpace) (bytes rest : List Byte) (i : Instr), decode k bytes = .ok (i, rest) →
    i.space = k ∧
    match i with
    | .identify c => ∃ p, bytes = 0x85 :: p :: encChannel c :: rest
    | .status c => ∃ p, bytes = 0x83 :: p :: encChannel c :: rest
    | i => bytes = encode i ++ rest

/-- R101, R104: in each decode space a first byte is refused as unassigned exactly when it is none of that space's codes:
the six opcodes on the wire, 0x00 to 0x08 for host operations, 0x10 to 0x18 for bus primitives. (That the refusal ends
the run of `step` is the model's choice, log 39.) -/
def Obligations.OtherFirstBytesAreRefused : Prop :=
  ∀ (k : DecodeSpace) (b : Byte) (bs : List Byte),
    decode k (b :: bs) = .error (.unassigned b) ↔
      match k with
      | .wire => b ∉ ([0x52, 0x81, 0x83, 0x85, 0x89, 0xF2] : List Byte)
      | .hostOp => ¬ b.toNat ≤ 0x08
      | .busOp => ¬ (0x10 ≤ b.toNat ∧ b.toNat ≤ 0x18)

/-- R99: the reserved bits are sent as zero, and a command with one of them set is refused (the refusal is the
model's reading of "MCPB never sends one" and of the table's masks, log 3). -/
def Obligations.ReservedBitsSentAsZeroAndRefused : Prop :=
  (∀ o : Word, ∃ b0 b1 b2 b3, addrEncode o = [b0, b1, b2, b3] ∧
      b0 &&& 0xC0 = 0 ∧ b2 &&& 0xFC = 0 ∧ b3 &&& 0x80 = 0) ∧
  (∀ en, ∃ b, cmdEnableInt en = [0x81, b] ∧ b &&& 0xFE = 0) ∧
  (∀ (op b0 b1 b2 b3 : Byte) (rest : List Byte), op = 0xF2 ∨ op = 0x52 →
      ¬ (b0 &&& 0xC0 = 0 ∧ b2 &&& 0xFC = 0 ∧ b3 &&& 0x80 = 0) →
      decode .wire (op :: b0 :: b1 :: b2 :: b3 :: rest) = .error .reservedBits) ∧
  (∀ (b : Byte) (rest : List Byte), b &&& 0xFE ≠ 0 → decode .wire (0x81 :: b :: rest) = .error .reservedBits)

/-- Words written out from the table decode to what they stand for (R92, R104), and the command byte sequences are
those of R90, R94, R95, the last two on R96's worked example. The operands the table gives no bits (channel 0, CARD_SLOT,
speed 0) are the model's zero operand bytes in the model's layout, and that the bits alone name the decode space is the
model's reading of the host's question (logs 3, 4). -/
def Obligations.TableWordsAndCommandBytes : Prop :=
  (cmdIdentify = [0x85, 0x00] ∧ cmdStatus = [0x83, 0x00] ∧ cmdClearStatus = [0x89] ∧
    cmdEnableInt true = [0x81, 0x01] ∧ cmdEnableInt false = [0x81, 0x00] ∧
    cmdPageProgram 0x123456 = [0xF2, 0x09, 0x1A, 0x00, 0x56] ∧
    cmdPageRead 0x123456 = [0x52, 0x09, 0x1A, 0x00, 0x56]) ∧
  decodeTableWord 16 0x8500 = some (.identify .ch0) ∧
  decodeTableWord 16 0x8101 = some (.enableInt .ch0 true) ∧
  decodeTableWord 40 0xF2091A0056 = some (.pageProgram .ch0 0x123456) ∧
  decodeTableWord 8 0x06 = some (.join .ch0) ∧
  decodeTableWord 8 0x12 = some (.select .ch0 .card ⟨0⟩)

/-! ### Geometry (42_geometry_decoder.md) -/

/-- R168: the bit-slice forms of the three fields, and the bits that influence no output, whatever the two tables
hold. -/
def Obligations.GeometryBitSlices : Prop :=
  ∀ id : IdWord,
    geoSize id = (id.extractLsb' 3 5).setWidth 32 ∧ latIdx id = id.extractLsb' 8 3 ∧ secIdx id = id.extractLsb' 11 3 ∧
    (∀ lat sec, geoDecodeFrom lat sec id = geoDecodeFrom lat sec (id &&& 0x3FF8)) ∧
    geoDecode id = geoDecode (id &&& 0x3FF8)

/-- R169, R163: both indexes, as the 32-bit values that the mask and the shift of R162 and R163 leave, lie in 0 to 7, so
that the three bits looked up are all of them; the undefined-geometry condition holds exactly when the selected
sector-size entry is zero, and, of the block's own table, always when the index selects slot 6 or 7, which are exactly
the ids with `id & 0x3000 = 0x3000`; the source's scenario `id = 0x0004` has a zero size and, unless entry 0 is zero, a
zero block count and no fault. -/
def Obligations.UndefinedGeometryExactly : Prop :=
  ∀ (lat sec : BitVec 3 → Word) (id : IdWord),
    (((rotl32 (id32 id) 26 &&& 0x1C) >>> 2).toNat ≤ 7 ∧ ((rotl32 (id32 id) 23 &&& 0x1C) >>> 2).toNat ≤ 7) ∧
    ((latIdx id).toNat = ((rotl32 (id32 id) 26 &&& 0x1C) >>> 2).toNat ∧
      (secIdx id).toNat = ((rotl32 (id32 id) 23 &&& 0x1C) >>> 2).toNat) ∧
    (geoDecodeFrom lat sec id = .undefined ↔ sec (id.extractLsb' 11 3) = 0) ∧
    ((secIdx id = 6 ∨ secIdx id = 7) ↔ id &&& 0x3000 = 0x3000) ∧
    (id &&& 0x3000 = 0x3000 → geoDecode id = .undefined) ∧
    (id = 0x0004 → latIdx id = 0 ∧ secIdx id = 0 ∧ geoSize id = 0 ∧
      (sec 0 ≠ 0 → geoDecodeFrom lat sec id = .valid ⟨0, lat 0, sec 0, 0⟩))

/-- R164, R165, R167: whatever the two tables hold, where the selected entry is not zero, the four fields, the block
count as the exact quotient of naturals (no step overflows), zero for a zero size. -/
def Obligations.GeometryFieldsAndBlockCount : Prop :=
  (∀ id, geoDecode id = geoDecodeFrom Config.latTable Config.secTable id) ∧
  ∀ (lat sec : BitVec 3 → Word) (id : IdWord), sec (id.extractLsb' 11 3) ≠ 0 →
    ∃ g, geoDecodeFrom lat sec id = .valid g ∧
      g.sizeMB.toNat = id.toNat / 8 % 32 ∧
      g.latency = lat (id.extractLsb' 8 3) ∧
      g.sectorSize = sec (id.extractLsb' 11 3) ∧
      g.blockCount.toNat = id.toNat / 8 % 32 * 2 ^ 17 / g.sectorSize.toNat ∧
      (g.sizeMB = 0 → g.blockCount = 0)

/-- R166: `DECODE_GEOMETRY` stores the decoded geometry, the undefined mark too, and raises on it; it needs no lock, no
attachment, and runs whether or not a DMA is in flight. (The premise excludes the fatal mark: log 8.) -/
def Obligations.DecodeGeometryStoresAndReports : Prop :=
  ∀ (c : Channel) (id : IdWord) (s : State), s.aborted = false →
    ∃ t, exec (.decodeGeometry c id) s = .next t ∧
      t.chan c = { s.chan c with geom := geoDecode id } ∧
      t.ret = (if Config.secTable (id.extractLsb' 11 3) = 0 then .raised .errUndefinedGeometry (.id id)
        else .returned (.geom (geoDecode id))) ∧
      t.env c = s.env c ∧ OutsideKept c s t ∧ MemoryKept c s t

/-! ### Bus primitives (40_bus_contract.md) -/

/-- R121: `LOCK` takes a free lock and returns true; on a held lock, whoever holds it, it returns false with no state
change and no event. (The premise excludes the fatal mark: log 8.) -/
def Obligations.LockIsATryLock : Prop :=
  ∀ (c : Channel) (slot : DeviceSlot) (s : State), s.aborted = false →
    ((s.chan c).lockOwner = none → ∃ t, exec (.lock c slot) s = .next t ∧ t.ret = .returned (.bool true) ∧
      t.chan c = { s.chan c with lockOwner := some slot, trace := (s.chan c).trace ++ [.lock slot] } ∧
      t.env c = s.env c ∧ OutsideKept c s t ∧ MemoryKept c s t) ∧
    ((s.chan c).lockOwner ≠ none → exec (.lock c slot) s = .next (s.returnValue (.bool false)))

/-- R122: `UNLOCK` frees the lock, whichever agent took it, once nothing is selected. -/
def Obligations.UnlockFreesTheLock : Prop :=
  ∀ (c : Channel) (s : State), s.aborted = false → (s.chan c).lockOwner ≠ none → (s.chan c).sel = none →
    ∃ t, exec (.unlock c) s = .next t ∧ t.ret = .returned .unit ∧
      t.chan c = { s.chan c with lockOwner := none, trace := (s.chan c).trace ++ [.unlock] } ∧
      t.env c = s.env c ∧ OutsideKept c s t ∧ MemoryKept c s t

/-- R123, R185 (T1): `SELECT` with the slot's lock held opens the transaction. -/
def Obligations.SelectOpensATransaction : Prop :=
  ∀ (c : Channel) (slot : DeviceSlot) (sp : Speed) (s : State), s.aborted = false → NoBusError c s →
    (s.chan c).lockOwner = some slot → (s.chan c).sel = none →
    ∃ t, exec (.select c slot sp) s = .next t ∧ t.ret = .returned .unit ∧
      t.chan c = { s.chan c with
        sel := some ⟨slot, sp⟩, fsm := .commandSent, trace := (s.chan c).trace ++ [.select slot sp] } ∧
      OutsideKept c s t ∧ MemoryKept c s t ∧ EnvKept c s t

/-- R124, R185 (T3, T4): `DESELECT` ends the transaction unless a DMA is issued and not performed. -/
def Obligations.DeselectEndsTheTransaction : Prop :=
  ∀ (c : Channel) (s : State), s.aborted = false → NoBusError c s → (s.chan c).sel ≠ none →
    ((s.chan c).dma = none ∨ ∃ d, (s.chan c).dma = some d ∧ d.performed = true) →
    ∃ t, exec (.deselect c) s = .next t ∧ t.ret = .returned .unit ∧
      t.chan c = { s.chan c with sel := none, fsm := .idle, trace := (s.chan c).trace ++ [.deselect] } ∧
      OutsideKept c s t ∧ MemoryKept c s t ∧ EnvKept c s t

/-- R125: `IMM_WRITE` in an open span sends its bytes, the empty sequence too; the block changes by the event only and
its two buffers not at all. (That the card receives them in a span of any slot, and not of CARD_SLOT alone, and with no
card attached too, is the model's choice, logs 44 and 50.) -/
def Obligations.ImmWriteSendsItsBytes : Prop :=
  ∀ (c : Channel) (bytes : List Byte) (s : State), SpanOpen c s → NoBusError c s →
    ∃ t, exec (.immWrite c bytes) s = .next t ∧ t.ret = .returned .unit ∧
      t.chan c = { s.chan c with trace := (s.chan c).trace ++ [.immWrite bytes] } ∧
      t.env c = (s.env c).receive c bytes ∧ OutsideKept c s t ∧
      (∀ a, t.byteAt .wbuf c a = s.byteAt .wbuf c a ∧ t.byteAt .rbuf c a = s.byteAt .rbuf c a)

/-- R126: `IMM_READ` of `n >= 1` bytes in an open span returns the next `n` bytes the card sends and records them; they
are written to no state of the block. In a span that begins with an opcode the card's memory stays as it was; in any
other its behaviour is a draw (R77, log 47). From the unconstrained card every byte is a draw, a fresh one each (R75, R126;
its form is log 12). (That the card answers in a span of any slot, and not of CARD_SLOT alone, and with no card attached
too, is the model's choice, logs 44 and 50.) -/
def Obligations.ImmReadReturnsTheCardsBytes : Prop :=
  ∀ (c : Channel) (n : Nat) (s : State), SpanOpen c s → NoBusError c s → 1 ≤ n →
    let bytes := (s.env c).answers c n
    bytes.length = n ∧ ∃ t, exec (.immRead c n) s = .next t ∧ t.ret = .returned (.bytes bytes) ∧
      t.chan c = { s.chan c with trace := (s.chan c).trace ++ [.immRead bytes] } ∧
      t.env c = (s.env c).afterSend c n ∧ OutsideKept c s t ∧
      (∀ a, t.byteAt .wbuf c a = s.byteAt .wbuf c a ∧ t.byteAt .rbuf c a = s.byteAt .rbuf c a) ∧
      ((s.env c).card.model = .unconstrained →
        ∀ k, k < n → bytes[k]? = some (Config.freeByte c ((s.env c).draws + k))) ∧
      ((s.env c).card.strays = false → MemoryKept c s t ∧ EnvKept c s t)

/-- R127: `DMA_TRANSFER` of a kind with its direction and length, in `AwaitingDMA` with nothing in flight, records the
DMA as issued and not performed, and returns. (The premise on the buffer's place is R65 item 1; its form is log 28.) -/
def Obligations.DmaTransferIsIssued : Prop :=
  ∀ (c : Channel) (kind : DmaKind) (s : State), SpanOpen c s → NoBusError c s → (s.chan c).fsm = .awaitingDMA →
    (s.env c).aligned kind = true →
    ∃ t, exec (.dmaTransfer c kind kind.dir kind.len) s = .next t ∧ t.ret = .returned .unit ∧
      t.chan c = { s.chan c with
        dma := some ⟨kind, kind.dir, kind.len, false⟩
        trace := (s.chan c).trace ++ [.dmaIssue kind kind.dir kind.len] } ∧
      OutsideKept c s t ∧ MemoryKept c s t ∧ EnvKept c s t

/-- R129: `REGISTER_INT_HANDLER` installs the handler, replacing any other, with no precondition and no event. (The
premise excludes the fatal mark: log 8.) -/
def Obligations.RegisterInstallsTheHandler : Prop :=
  ∀ (c : Channel) (h : Handler) (s : State), s.aborted = false →
    ∃ t, exec (.registerIntHandler c h) s = .next t ∧ t.ret = .returned .unit ∧
      t.chan c = { s.chan c with intHandler := some h } ∧
      t.env c = s.env c ∧ OutsideKept c s t ∧ MemoryKept c s t

/-- R130: `IS_ATTACHED` returns whether a card is attached and changes nothing. -/
def Obligations.IsAttachedAnswersTheEnvironment : Prop :=
  ∀ (c : Channel) (s : State), ∃ t, exec (.isAttached c) s = .next t ∧
    t.ret = .returned (.bool (s.env c).attached) ∧
    (∀ d, t.chan d = s.chan d ∧ t.env d = s.env d) ∧ OutsideKept c s t ∧ MemoryKept c s t

/-- R120, R122 to R127: a primitive outside its precondition is refused with `ERR_PROTOCOL`, and nothing else changes;
so is a card command on the wire of a channel with no span open or with a DMA in flight, whose immediate write is
outside its precondition (log 36), and one whose DMA buffer violates `DMA_ALIGN` (R65 item 1, log 28). (The premise
excludes the fatal mark: log 8.) -/
def Obligations.PreconditionsAreRefused : Prop :=
  ∀ (c : Channel) (s : State), s.aborted = false →
    let refused := Host.Outcome.next (φ := Fault) (ρ := Refusal) (s.takeException .errProtocol .nothing)
    (¬ ((s.chan c).lockOwner ≠ none ∧ (s.chan c).sel = none) → exec (.unlock c) s = refused) ∧
    (∀ slot sp, ¬ ((s.chan c).lockOwner = some slot ∧ (s.chan c).sel = none) → exec (.select c slot sp) s = refused) ∧
    (((s.chan c).sel = none ∨ ∃ d, (s.chan c).dma = some d ∧ d.performed = false) → exec (.deselect c) s = refused) ∧
    (((s.chan c).sel = none ∨ (s.chan c).dma ≠ none) →
      (∀ bytes, exec (.immWrite c bytes) s = refused) ∧ (∀ n, exec (.immRead c n) s = refused)) ∧
    (∀ kind, ((s.chan c).sel = none ∨ (s.chan c).dma ≠ none ∨ (s.chan c).fsm ≠ .awaitingDMA ∨
      (s.env c).aligned kind = false) → exec (.dmaTransfer c kind kind.dir kind.len) s = refused) ∧
    (((s.chan c).sel = none ∨ (s.chan c).dma ≠ none) →
      exec (.identify c) s = refused ∧ exec (.status c) s = refused ∧ exec (.clearStatusCmd c) s = refused ∧
      (∀ en, exec (.enableInt c en) s = refused) ∧ (∀ o, exec (.pageProgram c o) s = refused) ∧
      (∀ o n, exec (.pageRead c o n) s = refused)) ∧
    ((s.env c).aligned .program = false → ∀ o, exec (.pageProgram c o) s = refused) ∧
    ((s.env c).aligned .read = false → ∀ o n, exec (.pageRead c o n) s = refused)

/-- R132, R214, R220: a primitive on which the environment reports a bus error sets the fatal mark and ends with
`FATAL_BUS`; nothing else of the block changes. Inside a longer sequence the lines before the primitive have taken
effect: when `SELECT` reports the error, the lock stays held and a begin operation's flag is false (R182); when the first
`IMM_WRITE` does, the span stays open besides; when a later primitive of a begin operation does, its `DMA_TRANSFER` or the
write of the dummy bytes, the channel is in `AwaitingDMA` with no DMA record (R183, R184); when the `DESELECT` of a completion callback does, the flag is true and the DMA
record cleared (R187, R188); when the `SELECT` of the interrupt handler does, the lock stays held (R216). An operation
sets the mark exactly when it answers `FATAL_BUS`. (When the error is reported, and that the failing primitive has no
effect, is log 9.) -/
def Obligations.BusErrorIsFatal : Prop :=
  let fatal := fun s : State => Host.Outcome.next (φ := Fault) (ρ := Refusal) (s.abort.takeException .fatalBus .nothing)
  (∀ (c : Channel) (s : State), s.aborted = false → (s.env c).busErrorIn = some 0 →
    let locked := fun x : Chan =>
      s.setChan c { x with lockOwner := some .card, trace := (s.chan c).trace ++ [.lock .card] }
    (∀ slot sp, (s.chan c).lockOwner = some slot → (s.chan c).sel = none → exec (.select c slot sp) s = fatal s) ∧
    ((s.chan c).sel ≠ none → ((s.chan c).dma = none ∨ ∃ d, (s.chan c).dma = some d ∧ d.performed = true) →
      exec (.deselect c) s = fatal s) ∧
    ((s.chan c).sel ≠ none → (s.chan c).dma = none →
      (∀ bytes, exec (.immWrite c bytes) s = fatal s) ∧ (∀ n, 1 ≤ n → exec (.immRead c n) s = fatal s) ∧
      (∀ kind, (s.chan c).fsm = .awaitingDMA → (s.env c).aligned kind = true →
        exec (.dmaTransfer c kind kind.dir kind.len) s = fatal s)) ∧
    (∀ d, (s.chan c).dma = some d → d.performed = false → dmaPerform c s = s.abort) ∧
    ((s.env c).attached = true → (s.chan c).lockOwner = none → (s.chan c).sel = none →
      (∀ sp en, ∀ i ∈ [Instr.getId c sp, .readStatus c sp, .clearStatus c sp, .enableInterrupt c sp en,
        .waitReady c sp], exec i s = fatal (locked (s.chan c))) ∧
      (∀ sp o, (s.chan c).programDone = true → (s.env c).aligned .program = true →
        exec (.beginProgram c sp o) s = fatal (locked ((s.chan c).setFlag .program false))) ∧
      (∀ sp o n, (s.chan c).readDone = true → (s.env c).aligned .read = true → n ≤ Config.readExtra →
        exec (.beginRead c sp o n) s = fatal (locked ((s.chan c).setFlag .read false)))) ∧
    (∀ d, (s.chan c).dma = some d → d.performed = true → (s.chan c).sel ≠ none → (s.chan c).wbufRaced = [] →
      (s.chan c).rbufRaced = [] → (dmaComplete c s).aborted = true ∧
        (dmaComplete c s).chan c = { (s.chan c).setFlag d.kind true with
          dma := none
          trace := (s.chan c).trace ++ [.dmaComplete d.kind] }) ∧
    (∀ sp, (s.env c).card.intEnable = true → (s.chan c).intHandler = some (.clearStatus sp) →
      (s.chan c).lockOwner = none → (s.chan c).sel = none → cardInterrupt c s = (locked (s.chan c)).abort)) ∧
  (∀ (c : Channel) (sp : Speed) (en : Bool) (s : State), ChannelFree c s → (s.env c).busErrorIn = some 1 →
    ∀ i ∈ [Instr.getId c sp, .readStatus c sp, .clearStatus c sp, .enableInterrupt c sp en, .waitReady c sp],
      ∃ t, exec i s = .next t ∧ t.aborted = true ∧ t.ret = .raised .fatalBus .nothing ∧
        t.chan c = { s.chan c with
          lockOwner := some .card
          sel := some ⟨.card, sp⟩
          fsm := .commandSent
          trace := (s.chan c).trace ++ [.lock .card, .select .card sp] }) ∧
  (∀ (c : Channel) (sp : Speed) (o : Word) (n : Nat) (s : State), ChannelFree c s → n ≤ Config.readExtra →
    (s.env c).aligned .program = true → (s.env c).aligned .read = true →
    let dies := fun (i : Instr) (x : Chan) (fsm : Fsm) (sent : List BusEvent) =>
      ∃ t, exec i s = .next t ∧ t.aborted = true ∧ t.ret = .raised .fatalBus .nothing ∧
        t.chan c = { x with
          lockOwner := some .card
          sel := some ⟨.card, sp⟩
          fsm := fsm
          trace := (s.chan c).trace ++ [.lock .card, .select .card sp] ++ sent }
    ((s.chan c).programDone = true →
      ((s.env c).busErrorIn = some 1 →
        dies (.beginProgram c sp o) { s.chan c with programDone := false } .commandSent []) ∧
      ((s.env c).busErrorIn = some 2 →
        dies (.beginProgram c sp o) { s.chan c with programDone := false } .awaitingDMA
          [.immWrite (0xF2 :: addrEncode o)])) ∧
    ((s.chan c).readDone = true →
      ((s.env c).busErrorIn = some 1 →
        dies (.beginRead c sp o n) { s.chan c with readDone := false } .commandSent []) ∧
      ((s.env c).busErrorIn = some 2 →
        dies (.beginRead c sp o n) { s.chan c with readDone := false } .awaitingDMA
          [.immWrite (0x52 :: addrEncode o)]) ∧
      ((s.env c).busErrorIn = some 3 →
        dies (.beginRead c sp o n) { s.chan c with readDone := false } .awaitingDMA
          [.immWrite (0x52 :: addrEncode o), .immWrite ((List.range n).map fun k => s.byteAt .rbuf c (512 + k))]))) ∧
  (∀ (i : Instr) (s t : State), s.aborted = false → exec i s = .next t →
    (t.aborted = true ↔ t.ret = .raised .fatalBus .nothing))

/-- R125, R131: splitting an immediate write into two that send the same bytes in the same order gives equal traces, in
the spec's sense of equal, and the same wire bytes of every span (that the span still open counts as one is the model's
choice, log 29). -/
def Obligations.SplittingAnImmediateWriteIsNotObservable : Prop :=
  ∀ (c : Channel) (xs ys : List Byte) (s t u v : State), SpanOpen c s → NoBusError c s →
    exec (.immWrite c (xs ++ ys)) s = .next t → exec (.immWrite c xs) s = .next u → exec (.immWrite c ys) u = .next v →
    traceNorm (t.chan c).trace = traceNorm (v.chan c).trace ∧
    wireSpans none (t.chan c).trace = wireSpans none (v.chan c).trace

/-! ### Card commands on the wire (41_card_commands.md section 2) -/

/-- R145, R146, R62: at the start of a span, IDENTIFY writes `[0x85, PAD]` and reads two bytes, and its result is the
word they make, most significant first (R62 marks that order as the spec's own choice, D6); STATUS writes `[0x83, PAD]`
and reads one byte, its result. The bytes read are the reference card's word and next status (R76, R77), or draws of the
unconstrained card (R75; their form is log 12). (That a command runs by itself in an open span is the model's choice, log
36, and that the card answers it in a span of any slot, and with no card attached too, is another, logs 44 and 50.) -/
def Obligations.IdentifyAndStatusOnTheWire : Prop :=
  ∀ (c : Channel) (s : State), SpanOpen c s → NoBusError c s → (s.env c).card.cmd = [] → (s.env c).card.received = 0 →
    (∃ t b0 b1, exec (.identify c) s = .next t ∧ t.ret = .returned (.id (b0 ++ b1)) ∧
      ((s.env c).card.model = .reference → b0 ++ b1 = (s.env c).card.cardId) ∧
      ((s.env c).card.model = .unconstrained → ∃ m, (s.env c).draws ≤ m ∧ b0 = Config.freeByte c m ∧
        b1 = Config.freeByte c (m + 1)) ∧
      t.chan c = { s.chan c with trace := (s.chan c).trace ++ [.immWrite [0x85, 0x00], .immRead [b0, b1]] } ∧
      OutsideKept c s t ∧ MemoryKept c s t ∧ EnvKept c s t) ∧
    (∃ t st, exec (.status c) s = .next t ∧ t.ret = .returned (.status st) ∧
      ((s.env c).card.model = .reference → st = (s.env c).card.statusScript.next c ∧
        (t.env c).card.statusScript = (s.env c).card.statusScript.rest) ∧
      ((s.env c).card.model = .unconstrained → ∃ m, (s.env c).draws ≤ m ∧ st = Config.freeByte c m) ∧
      t.chan c = { s.chan c with trace := (s.chan c).trace ++ [.immWrite [0x83, 0x00], .immRead [st]] } ∧
      OutsideKept c s t ∧ MemoryKept c s t ∧ EnvKept c s t)

/-- R147, R148: CLEAR_STATUS and ENABLE_INT write their bytes at the start of a span and read nothing; ENABLE_INT makes
the card's interrupt enable its operand. (That a command runs by itself in an open span is the model's choice, log 36, and
that the card takes it in a span of any slot, and with no card attached too, is another, logs 44 and 50.) -/
def Obligations.ClearStatusAndEnableIntOnTheWire : Prop :=
  ∀ (c : Channel) (s : State), SpanOpen c s → NoBusError c s → (s.env c).card.cmd = [] → (s.env c).card.received = 0 →
    (∃ t, exec (.clearStatusCmd c) s = .next t ∧ t.ret = .returned .unit ∧
      t.chan c = { s.chan c with trace := (s.chan c).trace ++ [.immWrite [0x89]] } ∧
      OutsideKept c s t ∧ MemoryKept c s t ∧ EnvKept c s t) ∧
    (∀ en, ∃ t, exec (.enableInt c en) s = .next t ∧ t.ret = .returned .unit ∧
      t.chan c = { s.chan c with trace := (s.chan c).trace ++ [.immWrite [0x81, if en then 0x01 else 0x00]] } ∧
      (t.env c).card.intEnable = en ∧ (t.env c).attached = (s.env c).attached ∧
      (t.env c).card.cardId = (s.env c).card.cardId ∧ (t.env c).card.model = (s.env c).card.model ∧
      OutsideKept c s t ∧ MemoryKept c s t)

/-- R149, R185 (T2): PAGE_PROGRAM at the start of a span writes its five bytes and issues the program DMA; it writes no
completion flag. (The premise on the buffer's place is R65 item 1; its form is log 28. That a command runs by itself in
an open span, of any slot and with no card attached too, is the model's choice, logs 36, 44 and 50.) -/
def Obligations.PageProgramOnTheWire : Prop :=
  ∀ (c : Channel) (o : Offset23) (s : State), SpanOpen c s → NoBusError c s → (s.env c).card.cmd = [] →
    (s.env c).card.received = 0 → (s.env c).aligned .program = true →
    ∃ t, exec (.pageProgram c o) s = .next t ∧ t.ret = .returned .unit ∧
      t.chan c = { s.chan c with
        fsm := .awaitingDMA
        dma := some ⟨.program, .toCard, 128, false⟩
        trace := (s.chan c).trace ++
          [.immWrite (0xF2 :: addrEncode (o.setWidth 32)), .dmaIssue .program .toCard 128] } ∧
      OutsideKept c s t ∧ MemoryKept c s t ∧ EnvKept c s t

/-- R150, R185 (T2): PAGE_READ at the start of a span writes its five bytes, then the dummy bytes held by the extra
space, and issues the read DMA; more dummy bytes than the extra space holds are refused (I18, log 36). (The premise on the
buffer's place is R65 item 1; its form is log 28. That a command runs by itself in an open span, of any slot and with no
card attached too, is the model's choice, logs 36, 44 and 50, and so is it that the extra space holds what was stored
there, log 49.) -/
def Obligations.PageReadOnTheWire : Prop :=
  ∀ (c : Channel) (o : Offset23) (n : Nat) (s : State), SpanOpen c s → NoBusError c s → (s.env c).card.cmd = [] →
    (s.env c).card.received = 0 →
    (n ≤ Config.readExtra → (s.env c).aligned .read = true → ∃ t, exec (.pageRead c o n) s = .next t ∧ t.ret = .returned .unit ∧
      t.chan c = { s.chan c with
        fsm := .awaitingDMA
        dma := some ⟨.read, .fromCard, 512, false⟩
        trace := (s.chan c).trace ++
          [.immWrite (0x52 :: addrEncode (o.setWidth 32)),
            .immWrite ((List.range n).map fun k => s.byteAt .rbuf c (512 + k)), .dmaIssue .read .fromCard 512] } ∧
      OutsideKept c s t ∧ MemoryKept c s t ∧ EnvKept c s t) ∧
    (Config.readExtra < n → exec (.pageRead c o n) s = .next (s.takeException .errProtocol .nothing))

/-! ### Host operations (41_card_commands.md section 3, 43_transfer_synchronizer.md) -/

/-- R141, R62, R77: `GET_ID` on a free channel is one IDENTIFY span; the state after is the state before but for the
trace; a reference card's word is what it returns, and draws of an unconstrained one (R75; their form is log 12). -/
def Obligations.GetIdReturnsTheWord : Prop :=
  ∀ (c : Channel) (sp : Speed) (s : State), ChannelFree c s → NoBusError c s →
    ∃ t b0 b1, exec (.getId c sp) s = .next t ∧ t.ret = .returned (.id (b0 ++ b1)) ∧
      ((s.env c).card.model = .reference → b0 ++ b1 = (s.env c).card.cardId) ∧
      ((s.env c).card.model = .unconstrained → ∃ m, (s.env c).draws ≤ m ∧ b0 = Config.freeByte c m ∧
        b1 = Config.freeByte c (m + 1)) ∧
      t.chan c = { s.chan c with trace := (s.chan c).trace ++
        [.lock .card, .select .card sp, .immWrite [0x85, 0x00], .immRead [b0, b1], .deselect, .unlock] } ∧
      OutsideKept c s t ∧ MemoryKept c s t ∧ EnvKept c s t

/-- R142: `READ_STATUS` on a free channel is one STATUS span; the byte goes to the caller and to no state. It is the next
status of a reference card, which has then used it (R76), and a draw of an unconstrained one (R75; its form is log 12). -/
def Obligations.ReadStatusReturnsTheByte : Prop :=
  ∀ (c : Channel) (sp : Speed) (s : State), ChannelFree c s → NoBusError c s →
    ∃ t st, exec (.readStatus c sp) s = .next t ∧ t.ret = .returned (.status st) ∧
      ((s.env c).card.model = .reference → st = (s.env c).card.statusScript.next c ∧
        (t.env c).card.statusScript = (s.env c).card.statusScript.rest) ∧
      ((s.env c).card.model = .unconstrained → ∃ m, (s.env c).draws ≤ m ∧ st = Config.freeByte c m) ∧
      t.chan c = { s.chan c with trace := (s.chan c).trace ++
        [.lock .card, .select .card sp, .immWrite [0x83, 0x00], .immRead [st], .deselect, .unlock] } ∧
      OutsideKept c s t ∧ MemoryKept c s t ∧ EnvKept c s t

/-- R143, R144: `CLEAR_STATUS` and `ENABLE_INTERRUPT` on a free channel are one span each; the second makes the card's
interrupt enable its operand. -/
def Obligations.ClearStatusAndEnableInterruptSpans : Prop :=
  ∀ (c : Channel) (sp : Speed) (s : State), ChannelFree c s → NoBusError c s →
    (∃ t, exec (.clearStatus c sp) s = .next t ∧ t.ret = .returned .unit ∧
      t.chan c = { s.chan c with trace := (s.chan c).trace ++
        [.lock .card, .select .card sp, .immWrite [0x89], .deselect, .unlock] } ∧
      OutsideKept c s t ∧ MemoryKept c s t ∧ EnvKept c s t) ∧
    (∀ en, ∃ t, exec (.enableInterrupt c sp en) s = .next t ∧ t.ret = .returned .unit ∧
      t.chan c = { s.chan c with trace := (s.chan c).trace ++
        [.lock .card, .select .card sp, .immWrite [0x81, if en then 0x01 else 0x00], .deselect, .unlock] } ∧
      (t.env c).card.intEnable = en ∧ (t.env c).attached = (s.env c).attached ∧
      (t.env c).card.cardId = (s.env c).card.cardId ∧ (t.env c).card.model = (s.env c).card.model ∧
      OutsideKept c s t ∧ MemoryKept c s t)

/-- R140, R182, R210, R211, R220: the bus-touching operations are rejected, in this order of precedence, on the fatal
mark, on an empty channel, on their own flag, on a held lock; a rejection changes nothing. (The premises on the count and
on the place of the buffers, R65 item 1, are the operand checks that come first; log 28 for the second.) -/
def Obligations.RejectionsChangeNothing : Prop :=
  ∀ (c : Channel) (sp : Speed) (en : Bool) (o : Word) (n : Nat) (s : State) (i : Instr), n ≤ Config.readExtra →
    (s.env c).aligned .program = true → (s.env c).aligned .read = true →
    i ∈ [.getId c sp, .readStatus c sp, .clearStatus c sp, .enableInterrupt c sp en, .waitReady c sp,
      .beginProgram c sp o, .beginRead c sp o n] →
    (s.aborted = true → exec i s = .next (s.takeException .fatalBus .nothing)) ∧
    (s.aborted = false → (s.env c).attached = false →
      exec i s = .next (s.takeException .errNotAttached (.channel c))) ∧
    (s.aborted = false → (s.env c).attached = true →
      ((s.chan c).lockOwner ≠ none ∨ (i = .beginProgram c sp o ∧ (s.chan c).programDone = false) ∨
        (i = .beginRead c sp o n ∧ (s.chan c).readDone = false)) →
      exec i s = .next (s.takeException .errBusy (.channel c)))

/-- R183: `BEGIN_PROGRAM` on a free channel clears its flag, sends the command, issues the DMA and returns, holding the
lock. With a buffer that violates `DMA_ALIGN` it is refused before any other check (R65 item 1, log 28). -/
def Obligations.BeginProgramIssuesTheDma : Prop :=
  ∀ (c : Channel) (sp : Speed) (o : Word) (s : State),
    ((s.env c).aligned .program = false →
      exec (.beginProgram c sp o) s = .next (s.takeException .errProtocol .nothing)) ∧
    (ChannelFree c s → NoBusError c s → (s.chan c).programDone = true → (s.env c).aligned .program = true →
    ∃ t, exec (.beginProgram c sp o) s = .next t ∧ t.ret = .returned .unit ∧
      t.chan c = { s.chan c with
        programDone := false
        lockOwner := some .card
        sel := some ⟨.card, sp⟩
        fsm := .awaitingDMA
        dma := some ⟨.program, .toCard, 128, false⟩
        trace := (s.chan c).trace ++ [.lock .card, .select .card sp, .immWrite (0xF2 :: addrEncode o),
          .dmaIssue .program .toCard 128] } ∧
      OutsideKept c s t ∧ MemoryKept c s t ∧ EnvKept c s t)

/-- R184, R220: `BEGIN_READ` with a count the extra space does not hold is refused before any other check, with no
state change, and so it is with a buffer that violates `DMA_ALIGN` (R65 item 1, log 28); on a free channel, with a
count it holds, it clears its flag, sends the command and that many dummy bytes from `RBUF[c][512 ..]`, issues the DMA
and returns, holding the lock. (That the extra space holds what was stored there is the model's choice, log 49.) -/
def Obligations.BeginReadIssuesTheDma : Prop :=
  ∀ (c : Channel) (sp : Speed) (o : Word) (n : Nat) (s : State),
    (Config.readExtra < n ∨ (s.env c).aligned .read = false →
      exec (.beginRead c sp o n) s = .next (s.takeException .errProtocol .nothing)) ∧
    (ChannelFree c s → NoBusError c s → (s.chan c).readDone = true → n ≤ Config.readExtra →
      (s.env c).aligned .read = true →
    ∃ t, exec (.beginRead c sp o n) s = .next t ∧ t.ret = .returned .unit ∧
      t.chan c = { s.chan c with
        readDone := false
        lockOwner := some .card
        sel := some ⟨.card, sp⟩
        fsm := .awaitingDMA
        dma := some ⟨.read, .fromCard, 512, false⟩
        trace := (s.chan c).trace ++ [.lock .card, .select .card sp, .immWrite (0x52 :: addrEncode o),
          .immWrite ((List.range n).map fun k => s.byteAt .rbuf c (512 + k)), .dmaIssue .read .fromCard 512] } ∧
      OutsideKept c s t ∧ MemoryKept c s t ∧ EnvKept c s t)

/-- R189: `JOIN` returns with no side effect when both flags are true, waits with none when one is false, and reports
the fatal mark before either; it asks nothing of the lock or of attachment. -/
def Obligations.JoinWaitsForBothFlags : Prop :=
  ∀ (c : Channel) (s : State),
    (s.aborted = true → exec (.join c) s = .next (s.takeException .fatalBus .nothing)) ∧
    (s.aborted = false → (s.chan c).programDone = true → (s.chan c).readDone = true →
      ∃ t, exec (.join c) s = .next t ∧ t.ret = .returned .unit ∧ t.chan c = s.chan c ∧ t.env c = s.env c ∧
        OutsideKept c s t ∧ MemoryKept c s t) ∧
    (s.aborted = false → ((s.chan c).programDone = false ∨ (s.chan c).readDone = false) →
      ∃ t, exec (.join c) s = .next t ∧ t.ret = .waiting ∧ t.chan c = s.chan c ∧ t.env c = s.env c ∧
        OutsideKept c s t ∧ MemoryKept c s t)

/-- R189, R213: while a flag is false and no other agent is scheduled, any number of steps leaves the main flow at its
`JOIN` and the block as it was: a hang, never an end (log 7). -/
def Obligations.JoinHangsUntilCompletion : Prop :=
  ∀ (c : Channel) (s : State) (k : Nat), s.aborted = false → (s.chan c).bothDone = false → s.agenda = [] →
    NextCall (.join c) s →
    ∃ t, core.run k s = .next t ∧ t.program = s.program ∧ BlockKept s t ∧ t.aborted = false

/-- R190, R186: a step of `WAIT_READY` on a free channel is one STATUS span; the operation returns if the byte it read
has the ready bit and goes on waiting if it has not (log 7). -/
def Obligations.WaitReadyPollsOncePerStep : Prop :=
  ∀ (c : Channel) (sp : Speed) (s : State), ChannelFree c s → NoBusError c s →
    ∃ t st, exec (.waitReady c sp) s = .next t ∧
      t.ret = (if st &&& Config.readyMask = 0 then .waiting else .returned .unit) ∧
      t.chan c = { s.chan c with trace := (s.chan c).trace ++
        [.lock .card, .select .card sp, .immWrite [0x83, 0x00], .immRead [st], .deselect, .unlock] } ∧
      OutsideKept c s t ∧ MemoryKept c s t ∧ EnvKept c s t

/-- R190, R76, R213: on a reference card whose next status has the ready bit (an empty script answers `READY_MASK`),
`WAIT_READY` returns after exactly one span. On one none of whose successive statuses has the ready bit, whatever they
are, and while no other agent is scheduled, no number of steps brings the main flow past its `WAIT_READY`, each step
being one poll that consumes one status and frees the channel again: a hang, never an end (log 7 for the form of the wait,
log 19 for that of the script). -/
def Obligations.WaitReadyReturnsOnAReadyCard : Prop :=
  (∀ (c : Channel) (sp : Speed) (s : State), ChannelFree c s → NoBusError c s →
    (s.env c).card.model = .reference → (s.env c).card.statusScript.next c &&& Config.readyMask ≠ 0 →
    ∃ t, exec (.waitReady c sp) s = .next t ∧ t.ret = .returned .unit ∧
      (t.chan c).trace = (s.chan c).trace ++ [.lock .card, .select .card sp, .immWrite [0x83, 0x00],
        .immRead [(s.env c).card.statusScript.next c], .deselect, .unlock] ∧
      (t.env c).card.statusScript = (s.env c).card.statusScript.rest ∧ OutsideKept c s t ∧ MemoryKept c s t) ∧
  (∀ c, (⟨[], .ready⟩ : StatusScript).next c &&& Config.readyMask ≠ 0) ∧
  (∀ (c : Channel) (sp : Speed) (s : State) (k : Nat), ChannelFree c s → NoBusError c s →
    (s.env c).card.model = .reference →
    (∀ n, (StatusScript.rest^[n] (s.env c).card.statusScript).next c &&& Config.readyMask = 0) →
    s.agenda = [] → NextCall (.waitReady c sp) s →
    ∃ t, core.run k s = .next t ∧ t.program = s.program ∧ ChannelFree c t ∧
      (t.env c).card.statusScript = StatusScript.rest^[k] (s.env c).card.statusScript)

/-- R192: a second begin, of either kind, while a DMA is outstanding is rejected with `ERR_BUSY` and changes nothing;
once the first DMA has completed, with no `JOIN` between, it is accepted. -/
def Obligations.DoubleBeginIsRejected : Prop :=
  ∀ (c : Channel) (sp sq : Speed) (o p : Word) (n m : Nat) (s : State), ChannelFree c s → NoBusError c s →
    (s.chan c).programDone = true → (s.chan c).readDone = true → n ≤ Config.readExtra → m ≤ Config.readExtra →
    (s.env c).aligned .program = true → (s.env c).aligned .read = true →
    ∀ first ∈ [Instr.beginProgram c sp o, .beginRead c sp o n],
      ∃ t, exec first s = .next t ∧ t.ret = .returned .unit ∧
        ∀ second ∈ [Instr.beginProgram c sq p, .beginRead c sq p m],
          exec second t = .next (t.takeException .errBusy (.channel c)) ∧
          exec second (dmaPerform c t) = .next ((dmaPerform c t).takeException .errBusy (.channel c)) ∧
          ∃ u, exec second (dmaComplete c (dmaPerform c t)) = .next u ∧ u.ret = .returned .unit

/-! ### The DMA engine, the card interrupt, the races (R128, R187, R188, R216 to R219, R69, R70) -/

/-- R128, R61: the program DMA performs: the card receives `WBUF[c][0..127]` in order, and of the block only the trace
and the `performed` mark change. (No store raced it: R70. That the card receives the data whatever slot the span selected,
and not CARD_SLOT alone, and with no card attached too, is the model's choice, logs 44 and 50.) -/
def Obligations.DmaPerformSendsTheWriteBuffer : Prop :=
  ∀ (c : Channel) (s : State), s.aborted = false → NoBusError c s → (s.chan c).wbufRaced = [] →
    (s.chan c).dma = some ⟨.program, .toCard, 128, false⟩ →
    let data := (List.range 128).map fun i => s.byteAt .wbuf c i
    (dmaPerform c s).chan c = { s.chan c with
      dma := some ⟨.program, .toCard, 128, true⟩
      trace := (s.chan c).trace ++ [.dmaData .toCard data] } ∧
    (dmaPerform c s).env c = (s.env c).receive c data ∧ OutsideKept c s (dmaPerform c s) ∧
    (dmaPerform c s).ret = s.ret

/-- R128, R61: the read DMA performs: the next 512 bytes the card sends land in `RBUF[c][0..511]` in order; the extra
space, the write buffer and the flags keep what they hold. In a span that begins with an opcode the card's memory stays
as it was; in any other its behaviour is a draw (R77, log 47). From the unconstrained card every byte is a draw, a fresh
one each (R75, R128; its form is log 12). (That the card answers whatever slot the span selected, and not CARD_SLOT alone,
and with no card attached too, is the model's choice, logs 44 and 50.) -/
def Obligations.DmaPerformFillsTheReadBuffer : Prop :=
  ∀ (c : Channel) (s : State), s.aborted = false → NoBusError c s →
    (s.chan c).dma = some ⟨.read, .fromCard, 512, false⟩ →
    let data := (s.env c).answers c 512
    data.length = 512 ∧
      ((s.env c).card.model = .unconstrained →
        ∀ k, k < 512 → data[k]? = some (Config.freeByte c ((s.env c).draws + k))) ∧
      (∀ k, k < 512 → some ((dmaPerform c s).byteAt .rbuf c k) = data[k]?) ∧
      (∀ a, 512 ≤ a → (dmaPerform c s).byteAt .rbuf c a = s.byteAt .rbuf c a) ∧
      (∀ a, (dmaPerform c s).byteAt .wbuf c a = s.byteAt .wbuf c a) ∧
      (dmaPerform c s).chan c = { s.chan c with
        rbuf := ((dmaPerform c s).chan c).rbuf
        dma := some ⟨.read, .fromCard, 512, true⟩
        trace := (s.chan c).trace ++ [.dmaData .fromCard data] } ∧
      (dmaPerform c s).env c = (s.env c).afterSend c 512 ∧ OutsideKept c s (dmaPerform c s) ∧
      ((s.env c).card.strays = false → EnvKept c s (dmaPerform c s) ∧
        ∀ a, (dmaPerform c s).byteAt .card c a = s.byteAt .card c a) ∧ (dmaPerform c s).ret = s.ret

/-- R187, R188, R185 (T3): the completion callback sets the flag of its kind, clears the DMA record, deselects and
unlocks, in one step. (No store raced the DMA: R70.) -/
def Obligations.DmaCompleteReleasesTheChannel : Prop :=
  ∀ (c : Channel) (kind : DmaKind) (d : Dma) (s : State), s.aborted = false → NoBusError c s →
    (s.chan c).dma = some d → d.kind = kind → d.performed = true → (s.chan c).sel ≠ none →
    (s.chan c).lockOwner ≠ none → (s.chan c).wbufRaced = [] → (s.chan c).rbufRaced = [] →
    (dmaComplete c s).chan c = { (s.chan c).setFlag kind true with
      dma := none
      sel := none
      fsm := .idle
      lockOwner := none
      trace := (s.chan c).trace ++ [.dmaComplete kind, .deselect, .unlock] } ∧
    OutsideKept c s (dmaComplete c s) ∧ MemoryKept c s (dmaComplete c s) ∧ EnvKept c s (dmaComplete c s) ∧
    (dmaComplete c s).ret = s.ret

/-- R128, R36, R217: a step of the DMA engine or of the card-interrupt agent whose guard is false changes nothing (the
agenda may name it all the same, log 27). -/
def Obligations.DisabledAgentsDoNothing : Prop :=
  ∀ (c : Channel) (s : State),
    ((s.aborted = true ∨ (s.chan c).dma = none ∨ ∃ d, (s.chan c).dma = some d ∧ d.performed = true) →
      dmaPerform c s = s) ∧
    ((s.aborted = true ∨ (s.chan c).dma = none ∨ ∃ d, (s.chan c).dma = some d ∧ d.performed = false) →
      dmaComplete c s = s) ∧
    ((s.aborted = true ∨ (s.chan c).intHandler = none ∨ (s.env c).card.intEnable = false ∨
      (s.chan c).lockOwner ≠ none) → cardInterrupt c s = s)

/-- R216, R217: the registered handler, on a channel that is free, sends one CLEAR_STATUS span at its own speed and
leaves everything else of the block as it was; attachment is not checked. -/
def Obligations.CardInterruptClearsTheStatus : Prop :=
  ∀ (c : Channel) (sp : Speed) (s : State), s.aborted = false → NoBusError c s → (s.env c).card.intEnable = true →
    (s.chan c).intHandler = some (.clearStatus sp) → (s.chan c).lockOwner = none → (s.chan c).sel = none →
    (s.chan c).fsm = .idle → (s.chan c).dma = none →
    (cardInterrupt c s).chan c = { s.chan c with trace := (s.chan c).trace ++
      [.lock .card, .select .card sp, .immWrite [0x89], .deselect, .unlock] } ∧
    OutsideKept c s (cardInterrupt c s) ∧ MemoryKept c s (cardInterrupt c s) ∧ EnvKept c s (cardInterrupt c s) ∧
    (cardInterrupt c s).ret = s.ret

/-- R219: event bodies on different channels commute, and a card interrupt taken before the DMA of its own channel
completes does nothing. -/
def Obligations.EventBodiesCommute : Prop :=
  ∀ s : State, NoBusError .ch0 s → NoBusError .ch1 s →
    (dmaComplete .ch0 (dmaComplete .ch1 s) = dmaComplete .ch1 (dmaComplete .ch0 s) ∧
      cardInterrupt .ch0 (cardInterrupt .ch1 s) = cardInterrupt .ch1 (cardInterrupt .ch0 s) ∧
      dmaComplete .ch0 (cardInterrupt .ch1 s) = cardInterrupt .ch1 (dmaComplete .ch0 s) ∧
      dmaComplete .ch1 (cardInterrupt .ch0 s) = cardInterrupt .ch0 (dmaComplete .ch1 s)) ∧
    (∀ c, (s.chan c).lockOwner ≠ none → dmaComplete c (cardInterrupt c s) = dmaComplete c s)

/-- R69: a main-flow read of `RBUF[c][i]`, `i < 512`, is a draw while `readDone[c]` is false (the free value the counter
names, log 12) and the stored byte once it is true; neither changes the block. The main flow's other accesses (R40, R42,
R70, R223): the extra space and the write buffer read as stored; a store to `RBUF[c]` outside the window of R70 stores
its byte and changes nothing else; the flags and the geometry read as they are; an index that the buffer does not have
faults (the fault is log 31). (That the extra space keeps what is stored there is the model's choice, log 49. That `readDone` true makes a load and a store plain also during a read DMA that a bare
PAGE_READ or a raw DMA_TRANSFER issued, where R45 by itself would make the byte a draw, is the model's choice, log 42. The
premise excludes the fatal mark: log 37.) -/
def Obligations.EarlyReadsOfTheReadBufferAreDraws : Prop :=
  ∀ (c : Channel) (s : State), s.aborted = false →
    (∀ i, i < 512 → ∃ t, runAccess (.loadRbuf c i) s = .next t ∧ BlockKept s t ∧
      ((s.chan c).readDone = false → t.ret = .returned (.bytes [Config.freeByte c (s.env c).draws]) ∧
        (t.env c).draws = (s.env c).draws + 1) ∧
      ((s.chan c).readDone = true → t.ret = .returned (.bytes [s.byteAt .rbuf c i]))) ∧
    (∀ i, 512 ≤ i → i < 512 + Config.readExtra →
      runAccess (.loadRbuf c i) s = .next (s.returnValue (.bytes [s.byteAt .rbuf c i]))) ∧
    (∀ i, i < 128 → runAccess (.loadWbuf c i) s = .next (s.returnValue (.bytes [s.byteAt .wbuf c i]))) ∧
    (∀ i v, i < 512 + Config.readExtra → ((s.chan c).readDone = true ∨ 512 ≤ i) →
      ∃ t, runAccess (.storeRbuf c i v) s = .next t ∧ t.ret = .returned .unit ∧
        (∀ a, t.byteAt .rbuf c a = if a = i then v else s.byteAt .rbuf c a) ∧
        t.chan c = { s.chan c with rbuf := (t.chan c).rbuf } ∧ t.env c = s.env c ∧ OutsideKept c s t) ∧
    runAccess (.loadFlags c) s = .next (s.returnValue (.flags (s.chan c).programDone (s.chan c).readDone)) ∧
    runAccess (.loadGeom c) s = .next (s.returnValue (.geom (s.chan c).geom)) ∧
    (∀ i v, 512 + Config.readExtra ≤ i → runAccess (.loadRbuf c i) s = .fault (.noSuchAddress .rbuf i) ∧
      runAccess (.storeRbuf c i v) s = .fault (.noSuchAddress .rbuf i)) ∧
    (∀ i v, 128 ≤ i → runAccess (.loadWbuf c i) s = .fault (.noSuchAddress .wbuf i) ∧
      runAccess (.storeWbuf c i v) s = .fault (.noSuchAddress .wbuf i))

/-- R70, R71, R74: a main-flow store to `WBUF[c][i]` stores the byte (that it does so also while `programDone` is false is
log 23). While `programDone` is true that is all it does, and so it records no race: "an ordinary store", "seen by every
later program DMA". While it is false and the program DMA is outstanding and not performed, the store also makes byte `i`
of what the DMA then sends a draw (log 12), with the bytes raced before, and no other byte; once the DMA has performed it
makes byte `i` of what was sent a draw, in the trace and, where the span began with a PAGE_PROGRAM of that page, on the
card (log 21; for a span of any slot log 44, for an empty channel log 50, for a span ended by hand log 51, and for the
reserved bits of its address field log 48). A store to `RBUF[c][i]`, `i < 512`, while `readDone` is false changes no other
byte (that it lands at once is log 22), and leaves that byte, with the bytes raced before, and no other, a draw after the
DMA completes (log 22 for when). A completion leaves no race of its own buffer on record, and those of the
other buffer as they were. (The premise excludes the fatal mark: log 37.) -/
def Obligations.RacedStoresMakeTheSentByteADraw : Prop :=
  (∀ (c : Channel) (i : Nat) (v : Byte) (s : State), s.aborted = false → i < 128 →
    ∃ t, runAccess (.storeWbuf c i v) s = .next t ∧ t.ret = .returned .unit ∧ OutsideKept c s t ∧
      (∀ a, t.byteAt .wbuf c a = if a = i then v else s.byteAt .wbuf c a) ∧
      (∀ a, t.byteAt .rbuf c a = s.byteAt .rbuf c a) ∧
      ((s.chan c).programDone = true → t.chan c = { s.chan c with wbuf := (t.chan c).wbuf } ∧ t.env c = s.env c) ∧
      ((s.chan c).programDone = false → NoBusError c s → (s.chan c).dma = some ⟨.program, .toCard, 128, false⟩ →
        t.chan c = { s.chan c with wbuf := (t.chan c).wbuf, wbufRaced := (t.chan c).wbufRaced } ∧ t.env c = s.env c ∧
        ∃ data, ((dmaPerform c t).chan c).trace = (s.chan c).trace ++ [.dmaData .toCard data] ∧ data.length = 128 ∧
          ∀ k, k < 128 → if k = i ∨ k ∈ (s.chan c).wbufRaced
            then ∃ n, (s.env c).draws ≤ n ∧ data[k]? = some (Config.freeByte c n)
            else data[k]? = some (s.byteAt .wbuf c k)) ∧
      ((s.chan c).programDone = false → (s.chan c).dma = some ⟨.program, .toCard, 128, true⟩ →
        ∀ es data, (s.chan c).trace = es ++ [.dmaData .toCard data] →
          (t.chan c).trace = es ++ [.dmaData .toCard (data.set i (Config.freeByte c (s.env c).draws))] ∧
          ((s.env c).card.cmd.head? = some 0xF2 → cmdOffset (s.env c).card.cmd % 128 = 0 →
            (s.env c).card.received = 133 → ∀ a, t.byteAt .card c a =
              if a = cmdOffset (s.env c).card.cmd + i then Config.freeByte c (s.env c).draws
              else s.byteAt .card c a))) ∧
  (∀ (c : Channel) (i : Nat) (v : Byte) (p : Bool) (s : State), s.aborted = false → i < 512 →
    (s.chan c).readDone = false → NoBusError c s → (s.chan c).dma = some ⟨.read, .fromCard, 512, p⟩ →
    ∃ t, runAccess (.storeRbuf c i v) s = .next t ∧ t.ret = .returned .unit ∧ OutsideKept c s t ∧ t.env c = s.env c ∧
      t.chan c = { s.chan c with rbuf := (t.chan c).rbuf, rbufRaced := (t.chan c).rbufRaced } ∧
      (∀ a, t.byteAt .rbuf c a = if a = i then v else s.byteAt .rbuf c a) ∧
      let u := if p then t else dmaPerform c t
      ∀ a, if a = i ∨ a ∈ (s.chan c).rbufRaced
        then ∃ n, (s.env c).draws ≤ n ∧ (dmaComplete c u).byteAt .rbuf c a = Config.freeByte c n
        else (dmaComplete c u).byteAt .rbuf c a = u.byteAt .rbuf c a) ∧
  (∀ (c : Channel) (d : Dma) (s : State), s.aborted = false → (s.chan c).dma = some d → d.performed = true →
    let x := (dmaComplete c s).chan c
    (d.kind = .program → x.wbufRaced = [] ∧ x.rbufRaced = (s.chan c).rbufRaced) ∧
    (d.kind = .read → x.rbufRaced = [] ∧ x.wbufRaced = (s.chan c).wbufRaced))

/-! ### The card (R75 to R79) -/

/-- R78, R149: of the card's storage, the bytes received in a span that begins with an opcode change nothing but the page
of the offset that a PAGE_PROGRAM names; at a page boundary byte `k` of the page becomes the byte numbered `5 + k` of
the span, and at any other offset a draw (its form is log 12). Of the commands ENABLE_INT alone sets the interrupt
enable, and to true on the reference card exactly if its second byte is 0x01 (R77). (That both card models store is log
20, and that the unconstrained one ignores the reserved bits of the address field too is log 48.) -/
def Obligations.ReceivedPageDataLandsInItsPage : Prop :=
  ∀ (c : Channel) (e : Env) (bytes : List Byte),
    let cmd := e.card.cmdAfter bytes
    let before := fun a => e.card.byteAt c a
    let after := fun a => (e.receive c bytes).card.byteAt c a
    ((∃ op ∈ ([0x52, 0x81, 0x83, 0x85, 0x89] : List Byte), cmd.head? = some op) → ∀ a, after a = before a) ∧
    (cmd.head? = some 0xF2 → ∀ a, a / 128 ≠ cmdOffset cmd / 128 → after a = before a) ∧
    (cmd.head? = some 0xF2 → ∀ j k b, bytes[j]? = some b → e.card.received + j = 5 + k → k < 128 →
      (cmdOffset cmd % 128 = 0 → after (cmdOffset cmd + k) = b) ∧
      (cmdOffset cmd % 128 ≠ 0 → ∃ n, e.draws ≤ n ∧ after (cmdOffset cmd / 128 * 128 + k) = Config.freeByte c n)) ∧
    ((∃ op ∈ ([0x52, 0x83, 0x85, 0x89, 0xF2] : List Byte), cmd.head? = some op) →
      (e.receive c bytes).card.intEnable = e.card.intEnable) ∧
    (∀ f, e.card.model = .reference → e.card.cmd = [] → e.card.received = 0 → bytes = [0x81, f] →
      (e.receive c bytes).card.intEnable = decide (f = 0x01))

/-- The round trip the source asks for (S4) on the reference card of R76 to R78: what `BEGIN_PROGRAM` sends at a page
boundary, `BEGIN_READ` with the card's own latency brings back into the read buffer from the same offset. From any offset
at all it brings the 512 bytes that the card holds from `o mod 2^23` on, past the top of the card from its bottom (R150,
R78, R97; the length 512 is the spec's own decision D9, which cautions that a real transfer may be shorter). With another
count of dummy bytes every byte it brings is a draw (R78, R251; the form of a draw is log 12). -/
def Obligations.ProgrammedPageReadsBack : Prop :=
  ∀ (c : Channel) (sp : Speed) (o : Word) (s : State), ChannelFree c s → NoBusError c s →
    (s.env c).card.model = .reference →
    (s.env c).aligned .program = true → (s.env c).aligned .read = true →
    (s.chan c).programDone = true → (s.chan c).readDone = true →
    (s.chan c).wbufRaced = [] → (s.chan c).rbufRaced = [] →
    (o.toNat % 128 = 0 → ∃ t u, exec (.beginProgram c sp o) s = .next t ∧
      exec (.beginRead c sp o (s.env c).card.latency) (dmaComplete c (dmaPerform c t)) = .next u ∧
      ∀ k, k < 128 → (dmaComplete c (dmaPerform c u)).byteAt .rbuf c k = s.byteAt .wbuf c k) ∧
    (∃ u, exec (.beginRead c sp o (s.env c).card.latency) s = .next u ∧
      ∀ k, k < 512 → (dmaComplete c (dmaPerform c u)).byteAt .rbuf c k =
        s.byteAt .card c ((o.toNat % 2 ^ 23 + k) % 2 ^ 23)) ∧
    (∀ n, n ≤ Config.readExtra → n ≠ (s.env c).card.latency → ∃ u, exec (.beginRead c sp o n) s = .next u ∧
      ∀ k, k < 512 → ∃ m, (s.env c).draws ≤ m ∧
        (dmaComplete c (dmaPerform c u)).byteAt .rbuf c k = Config.freeByte c m)

/-! ### Memory -/

/-- Two memories in canonical form that read alike at every address are the same data. -/
def Obligations.EqualReadsMeanEqualMemories : Prop :=
  ∀ (sp : Space) (m n : List Host.Cell), Memory.wf sp m = true → Memory.wf sp n = true →
    (∀ a, Memory.read sp m a = Memory.read sp n a) → m = n

/-! ### The machine -/

/-- A step runs the decoded operation (R9, R27, R186; logs 1, 2, 7): when the main flow steps next and its next item is
a call that decodes to a well-formed operation of the main flow's, the step is `exec` of it, after which the call is done
unless the operation still waits; a call of any other operation is refused (R120). Such an operation runs as a step of
the bench (log 6). An access that is the main flow's next item is `runAccess` of it, and done after, or the fault it
answers (R69, R70, R223); words that are no operation are refused (R101, R104, log 39); a main flow with nothing left
stays as it is (R245, log 41). A step of the DMA engine or of the card interrupt, where it answers, is `dmaPerform`,
`dmaComplete` or `cardInterrupt` (R128, R217). A step of the environment writes its own field only: the attachment of a
channel (R48) or its choice of a bus error (R132; the form of the choice is log 9). -/
def Obligations.StepRunsTheDecodedOperation : Prop :=
  (∀ (s : State) (i : Instr) (k : DecodeSpace) (words : List Byte) (rest : List MainItem),
    s.program = .call k words :: rest → decodeCall k words = .ok i → i.wf = true →
    (i.mainFlow = true →
      (s.agenda = [] → ∀ t, exec i s = .next t → step s = .next (if t.ret = .waiting then t else t.retire)) ∧
      (∀ g, s.agenda = .mainFlow :: g → ∀ t, exec i (s.setAgenda g) = .next t →
        step s = .next (if t.ret = .waiting then t else t.retire))) ∧
    (i.mainFlow = false → MainFlowNext s → step s = .refused .outOfContext)) ∧
  (∀ (s : State) (i : Instr) (k : DecodeSpace) (words : List Byte) (g : List AgentStep),
    s.agenda = .bench k words :: g → decodeCall k words = .ok i → i.wf = true → i.mainFlow = false →
    step s = exec i (s.setAgenda g)) ∧
  (∀ (s t : State) (c : Channel) (g : List AgentStep),
    (s.agenda = .dmaPerform c :: g → step s = .next (dmaPerform c (s.setAgenda g))) ∧
    (s.agenda = .dmaComplete c :: g → step s = .next t → t = dmaComplete c (s.setAgenda g)) ∧
    (s.agenda = .cardInterrupt c :: g → step s = .next t → t = cardInterrupt c (s.setAgenda g))) ∧
  (∀ (s : State) (a : Access) (rest : List MainItem) (g : List AgentStep), s.program = .access a :: rest →
    (s.agenda = [] → (∀ t, runAccess a s = .next t → step s = .next t.retire) ∧
      ∀ f, runAccess a s = .fault f → step s = .fault f) ∧
    (s.agenda = .mainFlow :: g → (∀ t, runAccess a (s.setAgenda g) = .next t → step s = .next t.retire) ∧
      ∀ f, runAccess a (s.setAgenda g) = .fault f → step s = .fault f)) ∧
  (∀ (s : State) (k : DecodeSpace) (words : List Byte) (rest : List MainItem),
    s.program = .call k words :: rest → MainFlowNext s →
    (∀ e, decodeCall k words = .error e → step s = .refused (.undecodable e)) ∧
    (∀ i, decodeCall k words = .ok i → i.wf = false → step s = .refused .illFormed)) ∧
  (∀ (s : State) (g : List AgentStep), s.program = [] →
    (s.agenda = [] → step s = .next s) ∧ (s.agenda = .mainFlow :: g → step s = .next (s.setAgenda g))) ∧
  (∀ (s : State) (c : Channel) (g : List AgentStep),
    (∀ b, s.agenda = .attach c b :: g →
      step s = .next ((s.setAgenda g).setEnv c { s.env c with attached := b })) ∧
    (∀ k, s.agenda = .armBusError c k :: g →
      step s = .next ((s.setAgenda g).setEnv c { s.env c with busErrorIn := some k })))

/-- R210, R215: every operation ends with a next state, in every state, on any operands: none faults or is refused, and
none touches the main flow's program or the schedule (log 6). One that ends with `ERR_BUSY` or `ERR_PROTOCOL` leaves the
state unchanged, whatever lines ran before the refusal (R215; that this takes in the environment too is log 45). -/
def Obligations.EveryOperationAnswers : Prop :=
  ∀ (i : Instr) (s : State), ∃ t, exec i s = .next t ∧ t.program = s.program ∧ t.agenda = s.agenda ∧
    ∀ e info, e = .errBusy ∨ e = .errProtocol → t.ret = .raised e info → t = s.takeException e info

/-- R50: the protocol invariant (its seven items, while the fatal mark is clear, without the bench of log 6) is kept by
every step of every agent; so it holds in every state a run reaches from reset, whatever the environment, the main
flow's program and the schedule. From a state that has it every step of the DMA engine and of the card interrupt
answers: no primitive of an event body is ever outside its precondition (R120). -/
def Obligations.ProtocolInvariantIsKept : Prop :=
  (∀ s t : State, ProtocolInv s → step s = .next t → ProtocolInv t) ∧
  (∀ (s t : State) (k : Nat), s.ch0 = Chan.reset → s.ch1 = Chan.reset → NoBench s.agenda →
    core.run k s = .next t → ProtocolInv t) ∧
  (∀ (s : State) (c : Channel) (g : List AgentStep), ProtocolInv s →
    (s.agenda = .dmaPerform c :: g ∨ s.agenda = .dmaComplete c :: g ∨ s.agenda = .cardInterrupt c :: g) →
    ∃ t, step s = .next t)

/-- The memories keep their canonical form and stay inside their spaces under every step (R40), and a race on record
belongs to a flag that is false (R70, R74). -/
def Obligations.MemoryInvariantIsKept : Prop :=
  ∀ s t : State, MemoryInv s → step s = .next t → MemoryInv t

/-- R36: once the fatal mark is set no step of any agent changes the block's state or clears the mark (for the three
operations that test nothing this is the model's reading, log 8). -/
def Obligations.TheFatalMarkFreezesTheBlock : Prop :=
  ∀ s t : State, s.aborted = true → step s = .next t → t.aborted = true ∧ BlockKept s t

/-- R28, R29, R35, R180: a completion flag becomes true only by the completion callback of its channel, and false only
by the begin operation of its kind; a DMA record, once issued, is cleared only by that callback: no cancellation. -/
def Obligations.OnlyBeginAndCallbackWriteTheFlags : Prop :=
  ∀ (s t : State) (c : Channel) (kind : DmaKind), step s = .next t →
    ((s.chan c).flag kind = false → (t.chan c).flag kind = true →
      s.agenda.head? = some (.dmaComplete c) ∧ ∃ d, (s.chan c).dma = some d ∧ d.kind = kind ∧ d.performed = true) ∧
    ((s.chan c).flag kind = true → (t.chan c).flag kind = false →
      MainFlowNext s ∧ ∃ sp o n, NextCall (match kind with
        | .program => .beginProgram c sp o
        | .read => .beginRead c sp o n) s) ∧
    ((s.chan c).dma ≠ none → (t.chan c).dma = none → s.agenda.head? = some (.dmaComplete c))

/-- R41, R42, R60: no operation writes the write buffer or the read buffer (the read DMA and the main flow's own stores
do), and an operation the main flow may call stores nothing on a card by itself. -/
def Obligations.OperationsWriteNoBuffer : Prop :=
  ∀ (i : Instr) (s t : State), exec i s = .next t → ∀ c a,
    t.byteAt .wbuf c a = s.byteAt .wbuf c a ∧ t.byteAt .rbuf c a = s.byteAt .rbuf c a ∧
    (i.mainFlow = true → t.byteAt .card c a = s.byteAt .card c a)

/-- R225: an operation on one channel leaves the other channel's block state and environment as they were. -/
def Obligations.ChannelsAreIndependent : Prop :=
  ∀ (i : Instr) (s t : State) (d : Channel), exec i s = .next t → d ≠ i.channel →
    t.chan d = s.chan d ∧ t.env d = s.env d

/-- R21, R34: the geometry record is written only by `DECODE_GEOMETRY`, the handler only by `REGISTER_INT_HANDLER`. -/
def Obligations.GeometryAndHandlerHaveOneWriter : Prop :=
  ∀ (s t : State) (c : Channel), step s = .next t →
    ((t.chan c).geom ≠ (s.chan c).geom → MainFlowNext s ∧ ∃ id, NextCall (.decodeGeometry c id) s) ∧
    ((t.chan c).intHandler ≠ (s.chan c).intHandler → MainFlowNext s ∧ ∃ h, NextCall (.registerIntHandler c h) s)

/-! ### Reset (R55, R240) -/

/-- R55: the block after reset, on both channels; the write buffer holds the ramp and the read buffer no value. -/
def Obligations.ResetLeavesTheBlockIdle : Prop :=
  State.reset.aborted = false ∧ ∀ c,
    (State.reset.chan c).programDone = true ∧ (State.reset.chan c).readDone = true ∧
    (State.reset.chan c).fsm = .idle ∧ (State.reset.chan c).lockOwner = none ∧ (State.reset.chan c).sel = none ∧
    (State.reset.chan c).dma = none ∧ (State.reset.chan c).intHandler = none ∧
    (State.reset.chan c).geom = .underived ∧ (State.reset.chan c).trace = [] ∧
    (∀ i, i < 128 → State.reset.byteAt .wbuf c i = BitVec.ofNat 8 i) ∧
    (∀ i, Memory.read .rbuf (State.reset.mem .rbuf c) i = none)

/-- Both invariants hold at reset, and reset is a final state (R245). R245 speaks of a main flow that has no operation
left; that `State.reset` has none, its program being empty, is the model's choice (log 1). -/
def Obligations.InvariantsHoldAtReset : Prop :=
  ProtocolInv State.reset ∧ MemoryInv State.reset ∧ Final State.reset
end

