-- ==== Sys2Proof/Laws/State.lean ====
section
/-! SUPPORT. One lemma per field per update of the state, so that no later proof unfolds a record update. -/

namespace Sys2Proof.Machine

section Fields
variable (s : State) (c d : Channel) (x y : Chan) (e f : Env) (ev : BusEvent) (r : Ret)
  (g : List AgentStep) (v : Value) (code : ResultCode) (info : Info)

/-! ### setChan -/

@[simp] theorem State.setChan_chan : (s.setChan c x).chan c = x := by cases c <;> rfl
theorem State.setChan_chan_ne (h : d ≠ c) : (s.setChan c x).chan d = s.chan d := by
  cases c <;> cases d <;> first | rfl | exact absurd rfl h
@[simp] theorem State.setChan_env : (s.setChan c x).env d = s.env d := by cases c <;> cases d <;> rfl
@[simp] theorem State.setChan_aborted : (s.setChan c x).aborted = s.aborted := by cases c <;> rfl
@[simp] theorem State.setChan_program : (s.setChan c x).program = s.program := by cases c <;> rfl
@[simp] theorem State.setChan_agenda : (s.setChan c x).agenda = s.agenda := by cases c <;> rfl
@[simp] theorem State.setChan_ret : (s.setChan c x).ret = s.ret := by cases c <;> rfl
@[simp] theorem State.setChan_setChan : (s.setChan c x).setChan c y = s.setChan c y := by cases c <;> rfl
@[simp] theorem State.setChan_self : s.setChan c (s.chan c) = s := by cases c <;> rfl

/-! ### setEnv -/

@[simp] theorem State.setEnv_env : (s.setEnv c e).env c = e := by cases c <;> rfl
theorem State.setEnv_env_ne (h : d ≠ c) : (s.setEnv c e).env d = s.env d := by
  cases c <;> cases d <;> first | rfl | exact absurd rfl h
@[simp] theorem State.setEnv_chan : (s.setEnv c e).chan d = s.chan d := by cases c <;> cases d <;> rfl
@[simp] theorem State.setEnv_aborted : (s.setEnv c e).aborted = s.aborted := by cases c <;> rfl
@[simp] theorem State.setEnv_program : (s.setEnv c e).program = s.program := by cases c <;> rfl
@[simp] theorem State.setEnv_agenda : (s.setEnv c e).agenda = s.agenda := by cases c <;> rfl
@[simp] theorem State.setEnv_ret : (s.setEnv c e).ret = s.ret := by cases c <;> rfl
@[simp] theorem State.setEnv_setEnv : (s.setEnv c e).setEnv c f = s.setEnv c f := by cases c <;> rfl
@[simp] theorem State.setEnv_self : s.setEnv c (s.env c) = s := by cases c <;> rfl
/-- Environment updates move inside block updates. -/
@[simp] theorem State.setEnv_setChan : (s.setEnv c e).setChan d x = (s.setChan d x).setEnv c e := by
  cases c <;> cases d <;> rfl

/-! ### emit -/

@[simp] theorem State.emit_chan :
    (s.emit c ev).chan c = { s.chan c with trace := (s.chan c).trace ++ [ev] } := by cases c <;> rfl
theorem State.emit_chan_ne (h : d ≠ c) : (s.emit c ev).chan d = s.chan d := State.setChan_chan_ne _ _ _ _ h
@[simp] theorem State.emit_env : (s.emit c ev).env d = s.env d := State.setChan_env ..
@[simp] theorem State.emit_aborted : (s.emit c ev).aborted = s.aborted := State.setChan_aborted ..
@[simp] theorem State.emit_program : (s.emit c ev).program = s.program := State.setChan_program ..
@[simp] theorem State.emit_agenda : (s.emit c ev).agenda = s.agenda := State.setChan_agenda ..
@[simp] theorem State.emit_ret : (s.emit c ev).ret = s.ret := State.setChan_ret ..
/-- An event after a write of the channel's state is one write. -/
@[simp] theorem State.setChan_emit :
    (s.setChan c x).emit c ev = s.setChan c { x with trace := x.trace ++ [ev] } := by cases c <;> rfl
@[simp] theorem State.emit_setChan : (s.emit c ev).setChan c x = s.setChan c x := by cases c <;> rfl
@[simp] theorem State.setEnv_emit : (s.setEnv c e).emit d ev = (s.emit d ev).setEnv c e := by
  cases c <;> cases d <;> rfl

/-! ### ret, aborted, program, agenda -/

@[simp] theorem State.setRet_chan : (s.setRet r).chan d = s.chan d := by cases d <;> rfl
@[simp] theorem State.setRet_env : (s.setRet r).env d = s.env d := by cases d <;> rfl
@[simp] theorem State.setRet_aborted : (s.setRet r).aborted = s.aborted := rfl
@[simp] theorem State.setRet_program : (s.setRet r).program = s.program := rfl
@[simp] theorem State.setRet_agenda : (s.setRet r).agenda = s.agenda := rfl
@[simp] theorem State.setRet_ret : (s.setRet r).ret = r := rfl
@[simp] theorem State.abort_chan : s.abort.chan d = s.chan d := by cases d <;> rfl
@[simp] theorem State.abort_env : s.abort.env d = s.env d := by cases d <;> rfl
@[simp] theorem State.abort_aborted : s.abort.aborted = true := rfl
@[simp] theorem State.abort_program : s.abort.program = s.program := rfl
@[simp] theorem State.abort_agenda : s.abort.agenda = s.agenda := rfl
@[simp] theorem State.abort_ret : s.abort.ret = s.ret := rfl
@[simp] theorem State.setAgenda_chan : (s.setAgenda g).chan d = s.chan d := by cases d <;> rfl
@[simp] theorem State.setAgenda_env : (s.setAgenda g).env d = s.env d := by cases d <;> rfl
@[simp] theorem State.setAgenda_aborted : (s.setAgenda g).aborted = s.aborted := rfl
@[simp] theorem State.setAgenda_program : (s.setAgenda g).program = s.program := rfl
@[simp] theorem State.setAgenda_agenda : (s.setAgenda g).agenda = g := rfl
@[simp] theorem State.setAgenda_ret : (s.setAgenda g).ret = s.ret := rfl

@[simp] theorem State.returnValue_chan : (s.returnValue v).chan d = s.chan d := by cases d <;> rfl
@[simp] theorem State.returnValue_env : (s.returnValue v).env d = s.env d := by cases d <;> rfl
@[simp] theorem State.returnValue_aborted : (s.returnValue v).aborted = s.aborted := rfl
@[simp] theorem State.returnValue_program : (s.returnValue v).program = s.program := rfl
@[simp] theorem State.returnValue_agenda : (s.returnValue v).agenda = s.agenda := rfl
@[simp] theorem State.returnValue_ret : (s.returnValue v).ret = .returned v := rfl

@[simp] theorem State.takeException_chan : (s.takeException code info).chan d = s.chan d := by cases d <;> rfl
@[simp] theorem State.takeException_env : (s.takeException code info).env d = s.env d := by cases d <;> rfl
@[simp] theorem State.takeException_aborted : (s.takeException code info).aborted = s.aborted := rfl
@[simp] theorem State.takeException_program : (s.takeException code info).program = s.program := rfl
@[simp] theorem State.takeException_agenda : (s.takeException code info).agenda = s.agenda := rfl
@[simp] theorem State.takeException_ret : (s.takeException code info).ret = .raised code info := rfl

@[simp] theorem State.await_chan : s.await.chan d = s.chan d := by cases d <;> rfl
@[simp] theorem State.await_env : s.await.env d = s.env d := by cases d <;> rfl
@[simp] theorem State.await_aborted : s.await.aborted = s.aborted := rfl
@[simp] theorem State.await_program : s.await.program = s.program := rfl
@[simp] theorem State.await_agenda : s.await.agenda = s.agenda := rfl
@[simp] theorem State.await_ret : s.await.ret = .waiting := rfl

@[simp] theorem State.retire_chan : s.retire.chan d = s.chan d := by cases d <;> rfl
@[simp] theorem State.retire_env : s.retire.env d = s.env d := by cases d <;> rfl
@[simp] theorem State.retire_aborted : s.retire.aborted = s.aborted := rfl
@[simp] theorem State.retire_program : s.retire.program = s.program.tail := rfl
@[simp] theorem State.retire_agenda : s.retire.agenda = s.agenda := rfl
@[simp] theorem State.retire_ret : s.retire.ret = s.ret := rfl

@[simp] theorem State.retireUnlessWaiting_chan : s.retireUnlessWaiting.chan d = s.chan d := by
  unfold State.retireUnlessWaiting; split <;> simp
@[simp] theorem State.retireUnlessWaiting_env : s.retireUnlessWaiting.env d = s.env d := by
  unfold State.retireUnlessWaiting; split <;> simp
@[simp] theorem State.retireUnlessWaiting_aborted : s.retireUnlessWaiting.aborted = s.aborted := by
  unfold State.retireUnlessWaiting; split <;> simp
@[simp] theorem State.retireUnlessWaiting_agenda : s.retireUnlessWaiting.agenda = s.agenda := by
  unfold State.retireUnlessWaiting; split <;> simp
@[simp] theorem State.retireUnlessWaiting_ret : s.retireUnlessWaiting.ret = s.ret := by
  unfold State.retireUnlessWaiting; split <;> simp

/-! ### Memories -/

@[simp] theorem State.mem_wbuf : s.mem .wbuf c = (s.chan c).wbuf := rfl
@[simp] theorem State.mem_rbuf : s.mem .rbuf c = (s.chan c).rbuf := rfl
@[simp] theorem State.mem_card : s.mem .card c = (s.env c).card.storage := rfl

/-! ### Two states with the same parts are the same -/

theorem State.ext_parts {s t : State} (hc : ∀ d, t.chan d = s.chan d) (he : ∀ d, t.env d = s.env d)
    (ha : t.aborted = s.aborted) (hp : t.program = s.program) (hg : t.agenda = s.agenda) (hr : t.ret = s.ret) :
    t = s := by
  cases s; cases t
  have h0 := hc .ch0; have h1 := hc .ch1; have e0 := he .ch0; have e1 := he .ch1
  simp only [State.chan, State.env] at h0 h1 e0 e1
  simp_all

end Fields

/-! ### Flags -/

@[simp] theorem Chan.setFlag_lockOwner (x : Chan) (k : DmaKind) (b : Bool) : (x.setFlag k b).lockOwner = x.lockOwner := by
  cases k <;> rfl
@[simp] theorem Chan.setFlag_sel (x : Chan) (k : DmaKind) (b : Bool) : (x.setFlag k b).sel = x.sel := by cases k <;> rfl
@[simp] theorem Chan.setFlag_fsm (x : Chan) (k : DmaKind) (b : Bool) : (x.setFlag k b).fsm = x.fsm := by cases k <;> rfl
@[simp] theorem Chan.setFlag_dma (x : Chan) (k : DmaKind) (b : Bool) : (x.setFlag k b).dma = x.dma := by cases k <;> rfl
@[simp] theorem Chan.setFlag_trace (x : Chan) (k : DmaKind) (b : Bool) : (x.setFlag k b).trace = x.trace := by
  cases k <;> rfl
@[simp] theorem Chan.setFlag_wbuf (x : Chan) (k : DmaKind) (b : Bool) : (x.setFlag k b).wbuf = x.wbuf := by
  cases k <;> rfl
@[simp] theorem Chan.setFlag_rbuf (x : Chan) (k : DmaKind) (b : Bool) : (x.setFlag k b).rbuf = x.rbuf := by
  cases k <;> rfl
@[simp] theorem Chan.setFlag_geom (x : Chan) (k : DmaKind) (b : Bool) : (x.setFlag k b).geom = x.geom := by
  cases k <;> rfl
@[simp] theorem Chan.setFlag_intHandler (x : Chan) (k : DmaKind) (b : Bool) :
    (x.setFlag k b).intHandler = x.intHandler := by cases k <;> rfl
@[simp] theorem Chan.setFlag_wbufRaced (x : Chan) (k : DmaKind) (b : Bool) :
    (x.setFlag k b).wbufRaced = x.wbufRaced := by cases k <;> rfl
@[simp] theorem Chan.setFlag_rbufRaced (x : Chan) (k : DmaKind) (b : Bool) :
    (x.setFlag k b).rbufRaced = x.rbufRaced := by cases k <;> rfl
@[simp] theorem Chan.setFlag_flag (x : Chan) (k : DmaKind) (b : Bool) : (x.setFlag k b).flag k = b := by cases k <;> rfl

/-! ### The environment -/

@[simp] theorem Env.stray_attached (e : Env) (c : Channel) : (e.stray c).attached = e.attached := by
  unfold Env.stray; split <;> rfl
@[simp] theorem Env.stray_busErrorIn (e : Env) (c : Channel) : (e.stray c).busErrorIn = e.busErrorIn := by
  unfold Env.stray; split <;> rfl
@[simp] theorem Env.stray_buffers (e : Env) (c : Channel) : (e.stray c).buffers = e.buffers := by
  unfold Env.stray; split <;> rfl
@[simp] theorem Env.stray_model (e : Env) (c : Channel) : (e.stray c).card.model = e.card.model := by
  unfold Env.stray; split <;> rfl
@[simp] theorem Env.stray_cardId (e : Env) (c : Channel) : (e.stray c).card.cardId = e.card.cardId := by
  unfold Env.stray; split <;> rfl
@[simp] theorem Env.stray_statusScript (e : Env) (c : Channel) : (e.stray c).card.statusScript = e.card.statusScript := by
  unfold Env.stray; split <;> rfl
@[simp] theorem Env.stray_cmd (e : Env) (c : Channel) : (e.stray c).card.cmd = e.card.cmd := by
  unfold Env.stray; split <;> rfl
@[simp] theorem Env.stray_received (e : Env) (c : Channel) : (e.stray c).card.received = e.card.received := by
  unfold Env.stray; split <;> rfl
@[simp] theorem Env.stray_sent (e : Env) (c : Channel) : (e.stray c).card.sent = e.card.sent := by
  unfold Env.stray; split <;> rfl
@[simp] theorem Env.stray_readAt (e : Env) (c : Channel) : (e.stray c).card.readAt = e.card.readAt := by
  unfold Env.stray; split <;> rfl
/-- In a span that begins with an opcode, and before its first byte, the card does nothing of its own. -/
theorem Env.stray_of_not {e : Env} {c : Channel} (h : e.card.strays = false) : e.stray c = e := by simp [Env.stray, h]
@[simp] theorem Env.receive_attached (e : Env) (c : Channel) (bs : List Byte) : (e.receive c bs).attached = e.attached :=
  Env.stray_attached ..
@[simp] theorem Env.receive_busErrorIn (e : Env) (c : Channel) (bs : List Byte) : (e.receive c bs).busErrorIn = e.busErrorIn :=
  Env.stray_busErrorIn ..
@[simp] theorem Env.receive_buffers (e : Env) (c : Channel) (bs : List Byte) : (e.receive c bs).buffers = e.buffers :=
  Env.stray_buffers ..
@[simp] theorem Env.receive_model (e : Env) (c : Channel) (bs : List Byte) :
    (e.receive c bs).card.model = e.card.model := Env.stray_model ..
@[simp] theorem Env.receive_cardId (e : Env) (c : Channel) (bs : List Byte) :
    (e.receive c bs).card.cardId = e.card.cardId := Env.stray_cardId ..
@[simp] theorem Env.receive_statusScript (e : Env) (c : Channel) (bs : List Byte) :
    (e.receive c bs).card.statusScript = e.card.statusScript := Env.stray_statusScript ..
@[simp] theorem Env.receive_readAt (e : Env) (c : Channel) (bs : List Byte) :
    (e.receive c bs).card.readAt = e.card.readAt := Env.stray_readAt ..
@[simp] theorem Env.receive_received (e : Env) (c : Channel) (bs : List Byte) :
    (e.receive c bs).card.received = e.card.received + bs.length := Env.stray_received ..
@[simp] theorem Env.receive_cmd (e : Env) (c : Channel) (bs : List Byte) :
    (e.receive c bs).card.cmd = (e.card.cmd ++ bs).take 5 := Env.stray_cmd ..
@[simp] theorem Env.afterSend_attached (e : Env) (c : Channel) (n : Nat) : (e.afterSend c n).attached = e.attached :=
  Env.stray_attached ..
@[simp] theorem Env.afterSend_busErrorIn (e : Env) (c : Channel) (n : Nat) : (e.afterSend c n).busErrorIn = e.busErrorIn :=
  Env.stray_busErrorIn ..
@[simp] theorem Env.afterSend_buffers (e : Env) (c : Channel) (n : Nat) : (e.afterSend c n).buffers = e.buffers :=
  Env.stray_buffers ..
@[simp] theorem Env.afterSend_model (e : Env) (c : Channel) (n : Nat) :
    (e.afterSend c n).card.model = e.card.model := Env.stray_model ..
@[simp] theorem Env.afterSend_cardId (e : Env) (c : Channel) (n : Nat) :
    (e.afterSend c n).card.cardId = e.card.cardId := Env.stray_cardId ..
@[simp] theorem Env.afterSend_cmd (e : Env) (c : Channel) (n : Nat) :
    (e.afterSend c n).card.cmd = e.card.cmd := Env.stray_cmd ..
@[simp] theorem Env.afterSend_received (e : Env) (c : Channel) (n : Nat) :
    (e.afterSend c n).card.received = e.card.received := Env.stray_received ..
@[simp] theorem Card.newSpan_strays (k : Card) : k.newSpan.strays = false := rfl
@[simp] theorem Env.drawn_buffers (e : Env) (n : Nat) : (e.drawn n).buffers = e.buffers := rfl
@[simp] theorem Env.drawn_card (e : Env) (n : Nat) : (e.drawn n).card = e.card := rfl
@[simp] theorem Env.drawn_attached (e : Env) (n : Nat) : (e.drawn n).attached = e.attached := rfl
@[simp] theorem Env.drawn_busErrorIn (e : Env) (n : Nat) : (e.drawn n).busErrorIn = e.busErrorIn := rfl
@[simp] theorem Env.answers_length (e : Env) (c : Channel) (n : Nat) : (e.answers c n).length = n := by
  simp [Env.answers]
@[simp] theorem Card.newSpan_model (k : Card) : k.newSpan.model = k.model := rfl
@[simp] theorem Card.newSpan_cardId (k : Card) : k.newSpan.cardId = k.cardId := rfl
@[simp] theorem Card.newSpan_intEnable (k : Card) : k.newSpan.intEnable = k.intEnable := rfl
@[simp] theorem Card.newSpan_statusScript (k : Card) : k.newSpan.statusScript = k.statusScript := rfl
@[simp] theorem Card.newSpan_storage (k : Card) : k.newSpan.storage = k.storage := rfl
@[simp] theorem Card.newSpan_cmd (k : Card) : k.newSpan.cmd = [] := rfl
@[simp] theorem Card.newSpan_received (k : Card) : k.newSpan.received = 0 := rfl
@[simp] theorem Card.newSpan_sent (k : Card) : k.newSpan.sent = 0 := rfl
@[simp] theorem Card.newSpan_readAt (k : Card) : k.newSpan.readAt = none := rfl
@[simp] theorem Card.newSpan_content (k : Card) : k.newSpan.content = k.content := rfl

/-! ### Results -/

@[simp] theorem Res.andThen_ok {α β : Type} (a : α) (s : State) (k : α → State → Res β) :
    (Res.ok a s).andThen k = k a s := rfl
@[simp] theorem Res.andThen_raise {α β : Type} (e : ResultCode) (i : Info) (s : State) (k : α → State → Res β) :
    (Res.raise e i s : Res α).andThen k = .raise e i s := rfl
@[simp] theorem Res.unit_ok (s : State) : (Res.ok () s).unit = .ok .unit s := rfl
@[simp] theorem Res.unit_raise (e : ResultCode) (i : Info) (s : State) : (Res.raise e i s).unit = .raise e i s := rfl
@[simp] theorem raiseEnd_same (s : State) (e : ResultCode) (i : Info) : raiseEnd s e i s = s.takeException e i := by
  simp [raiseEnd]
@[simp] theorem raiseEnd_fatalBus (s t : State) (i : Info) :
    raiseEnd s .fatalBus i t = t.takeException .fatalBus i := rfl
@[simp] theorem raiseEnd_errUndefinedGeometry (s t : State) (i : Info) :
    raiseEnd s .errUndefinedGeometry i t = t.takeException .errUndefinedGeometry i := rfl
/-- A refused request leaves the state unchanged (R215). -/
theorem raiseEnd_refused {s t : State} {e : ResultCode} {i : Info} (h : e.refuses = true) :
    raiseEnd s e i t = s.takeException e i := by simp [raiseEnd, h]
@[simp] theorem raiseEnd_ret (s t : State) (e : ResultCode) (i : Info) : (raiseEnd s e i t).ret = .raised e i := rfl
@[simp] theorem finish_ok (v : Value) (s t : State) : finish s (.ok v t) = .next (t.returnValue v) := rfl
@[simp] theorem finish_raise (e : ResultCode) (i : Info) (s t : State) :
    finish s (.raise e i t) = .next (raiseEnd s e i t) := rfl
@[simp] theorem State.runBody_ok (s : State) : State.runBody (.ok () s) = s := rfl
@[simp] theorem State.runBody_raise (e : ResultCode) (i : Info) (s : State) :
    State.runBody (.raise e i s) = s := rfl
@[simp] theorem eventStep_ok (s : State) : eventStep (.ok () s) = .next s := rfl
@[simp] theorem ifFit_true {α : Type} (s : State) (k : Res α) : ifFit true s k = k := rfl
@[simp] theorem ifFit_false {α : Type} (s : State) (k : Res α) : ifFit false s k = .raise .errProtocol .nothing s := rfl
@[simp] theorem unlessAborted_clear {α : Type} {s : State} (k : Res α) (h : s.aborted = false) :
    unlessAborted s k = k := by simp [unlessAborted, h]
@[simp] theorem unlessAborted_set {α : Type} {s : State} (k : Res α) (h : s.aborted = true) :
    unlessAborted s k = .raise .fatalBus .nothing s := by simp [unlessAborted, h]

end Sys2Proof.Machine
end

