-- ==== Sys2Proof/Laws/Bus.lean ====
section
/-! SUPPORT. What each shared operation of the bus can do: its result where it runs normally, and one inversion lemma
that lists every end it can have. Later proofs cite these instead of unfolding the primitives. -/

namespace Sys2Proof.Machine

/-! ### The environment's choice of a bus error -/

theorem onBus_clear {α : Type} {c : Channel} {s : State} (k : State → Res α) (h : (s.env c).busErrorIn = none) :
    onBus c s k = k s := by simp [onBus, h]

theorem onBus_error {α : Type} {c : Channel} {s : State} (k : State → Res α) (h : (s.env c).busErrorIn = some 0) :
    onBus c s k = .raise .fatalBus .nothing s.abort := by simp [onBus, h, busError]

/-- A primitive that may fail ends in the bus error, or takes its effect on a state that differs in the environment's
countdown only. -/
theorem onBus_cases {α : Type} (c : Channel) (s : State) (k : State → Res α) :
    onBus c s k = .raise .fatalBus .nothing s.abort ∨
      ∃ b, onBus c s k = k (s.setEnv c { s.env c with busErrorIn := b }) := by
  unfold onBus
  split
  · next h => exact .inr ⟨none, by rw [show ({ s.env c with busErrorIn := none } : Env) = s.env c by rw [← h]]; simp⟩
  · exact .inl rfl
  · exact .inr ⟨_, rfl⟩

/-! ### Lock and unlock -/

theorem busLock_free {c : Channel} {slot : DeviceSlot} {s : State} (h : (s.chan c).lockOwner = none) :
    busLock c slot s =
      (true, s.setChan c { s.chan c with lockOwner := some slot, trace := (s.chan c).trace ++ [.lock slot] }) := by
  simp [busLock, h]

theorem busLock_held {c : Channel} {slot : DeviceSlot} {s : State} (h : (s.chan c).lockOwner ≠ none) :
    busLock c slot s = (false, s) := by simp [busLock, h]

theorem busUnlock_ok {c : Channel} {s : State} (hl : (s.chan c).lockOwner ≠ none) (hs : (s.chan c).sel = none) :
    busUnlock c s =
      .ok () (s.setChan c { s.chan c with lockOwner := none, trace := (s.chan c).trace ++ [.unlock] }) := by
  simp [busUnlock, hl, hs]

/-! ### Select and deselect -/

/-- The environment once a span begins or ends. -/
def Env.newSpan (e : Env) : Env := { e with card := e.card.newSpan }

@[simp] theorem Env.newSpan_card (e : Env) : e.newSpan.card = e.card.newSpan := rfl
@[simp] theorem Env.newSpan_attached (e : Env) : e.newSpan.attached = e.attached := rfl
@[simp] theorem Env.newSpan_busErrorIn (e : Env) : e.newSpan.busErrorIn = e.busErrorIn := rfl
@[simp] theorem Env.newSpan_buffers (e : Env) : e.newSpan.buffers = e.buffers := rfl
@[simp] theorem Env.newSpan_draws (e : Env) : e.newSpan.draws = e.draws := rfl

/-- Alignment depends on the place of the buffers only, which nothing changes (R65). -/
theorem Env.aligned_congr {e f : Env} (h : e.buffers = f.buffers) (k : DmaKind) : e.aligned k = f.aligned k := by
  simp [Env.aligned, h]

@[simp] theorem Env.newSpan_aligned (e : Env) (k : DmaKind) : e.newSpan.aligned k = e.aligned k := rfl
@[simp] theorem Env.receive_aligned (e : Env) (c : Channel) (bs : List Byte) (k : DmaKind) :
    (e.receive c bs).aligned k = e.aligned k := Env.aligned_congr (by simp) k
@[simp] theorem Env.afterSend_aligned (e : Env) (c : Channel) (n : Nat) (k : DmaKind) :
    (e.afterSend c n).aligned k = e.aligned k := Env.aligned_congr (by simp) k

theorem busSelect_ok {c : Channel} {slot : DeviceSlot} {sp : Speed} {s : State}
    (hl : (s.chan c).lockOwner = some slot) (hs : (s.chan c).sel = none) (hb : (s.env c).busErrorIn = none) :
    busSelect c slot sp s = .ok () ((s.setChan c { s.chan c with
      sel := some ⟨slot, sp⟩, fsm := .commandSent, trace := (s.chan c).trace ++ [.select slot sp] }).setEnv c
      (s.env c).newSpan) := by
  simp [busSelect, hl, hs, onBus_clear _ hb, Env.newSpan]

theorem busDeselect_ok {c : Channel} {s : State} (hs : (s.chan c).sel ≠ none)
    (hd : (s.chan c).dma = none ∨ (s.chan c).dma.any (·.performed) = true) (hb : (s.env c).busErrorIn = none) :
    busDeselect c s = .ok () ((s.setChan c { s.chan c with
      sel := none, fsm := .idle, trace := (s.chan c).trace ++ [.deselect] }).setEnv c (s.env c).newSpan) := by
  simp [busDeselect, hs, hd, onBus_clear _ hb, Env.newSpan]

/-! ### Immediate transfers and the issue of a DMA -/

theorem busImmWrite_ok {c : Channel} {bytes : List Byte} {s : State} (hs : (s.chan c).sel ≠ none)
    (hd : (s.chan c).dma = none) (hb : (s.env c).busErrorIn = none) :
    busImmWrite c bytes s = .ok () ((s.setChan c { s.chan c with
      trace := (s.chan c).trace ++ [.immWrite bytes] }).setEnv c ((s.env c).receive c bytes)) := by
  simp [busImmWrite, hs, hd, onBus_clear _ hb, State.emit]

theorem busImmRead_ok {c : Channel} {n : Nat} {s : State} (hn : 1 ≤ n) (hs : (s.chan c).sel ≠ none)
    (hd : (s.chan c).dma = none) (hb : (s.env c).busErrorIn = none) :
    busImmRead c n s = .ok ((s.env c).answers c n) ((s.setChan c { s.chan c with
      trace := (s.chan c).trace ++ [.immRead ((s.env c).answers c n)] }).setEnv c ((s.env c).afterSend c n)) := by
  simp [busImmRead, hn, hs, hd, onBus_clear _ hb, State.emit]

theorem busDmaIssue_ok {c : Channel} {kind : DmaKind} {s : State} (hk : (s.env c).aligned kind = true)
    (hs : (s.chan c).sel ≠ none)
    (hd : (s.chan c).dma = none) (hf : (s.chan c).fsm = .awaitingDMA) (hb : (s.env c).busErrorIn = none) :
    busDmaIssue c kind kind.dir kind.len s = .ok () (s.setChan c { s.chan c with
      dma := some ⟨kind, kind.dir, kind.len, false⟩
      trace := (s.chan c).trace ++ [.dmaIssue kind kind.dir kind.len] }) := by
  simp [busDmaIssue, hk, hs, hd, hf, onBus_clear _ hb]

/-! ### What holds of every end of a sequence of lines -/

/-- Every end of the lines, value or raise, leaves a state with the property. -/
def Res.All {α : Type} (P : State → Prop) : Res α → Prop
  | .ok _ s => P s
  | .raise _ _ s => P s

theorem Res.all_andThen {α β : Type} {P : State → Prop} {r : Res α} {k : α → State → Res β} (hr : r.All P)
    (hk : ∀ a s, P s → (k a s).All P) : (r.andThen k).All P := by
  cases r with
  | ok a s => exact hk a s hr
  | raise e i s => exact hr

theorem Res.all_unit {P : State → Prop} {r : Res Unit} (hr : r.All P) : r.unit.All P :=
  Res.all_andThen hr fun _ _ h => h

theorem Res.all_unlessAborted {α : Type} {P : State → Prop} {s : State} {r : Res α} (hs : P s)
    (hr : s.aborted = false → r.All P) : (unlessAborted s r).All P := by
  unfold unlessAborted
  split
  · exact hs
  · next h => exact hr (by simpa using h)

theorem Res.all_ifFit {α : Type} {P : State → Prop} {s : State} {ok : Bool} {r : Res α} (hs : P s) (hr : r.All P) :
    (ifFit ok s r).All P := by
  cases ok
  · exact hs
  · exact hr

/-- What an event body's step answers, where it answers a next state (R221, log 46). -/
theorem eventStep_inv {r : Res Unit} {t : State} (h : eventStep r = .next t) : t = State.runBody r := by
  unfold eventStep at h
  split at h
  · exact absurd h (by simp)
  · exact (Host.Outcome.next.inj h).symm

theorem State.runBody_of_all {P : State → Prop} {r : Res Unit} (hr : r.All P) : P (State.runBody r) := by
  cases r <;> exact hr

/-- The next state of an operation is an end of its lines with what the caller is told. -/
theorem finish_inv {s : State} {r : Res Value} {t : State} (h : finish s r = .next t) :
    (∃ v u, r = .ok v u ∧ t = u.returnValue v) ∨ ∃ e i u, r = .raise e i u ∧ t = raiseEnd s e i u := by
  cases r with
  | ok v u => exact .inl ⟨v, u, rfl, by simpa using h.symm⟩
  | raise e i u => exact .inr ⟨e, i, u, rfl, by simpa using h.symm⟩

/-- What an operation leaves that ends with a refusal: the state it began in, but for what the caller is told (R215). -/
theorem finish_refused {s : State} {r : Res Value} {t : State} {e : ResultCode} {i : Info} (h : finish s r = .next t)
    (ht : t.ret = .raised e i) (he : e.refuses = true) : t = s.takeException e i := by
  obtain ⟨v, u, rfl, rfl⟩ | ⟨e', i', u, rfl, rfl⟩ := finish_inv h
  · cases ht
  · cases ht
    exact raiseEnd_refused he

/-- A property that what the caller is told does not touch holds after a raise if it holds where the operation began and
where its lines ended. -/
theorem raiseEnd_of {P : State → Prop} {s u : State} {e : ResultCode} {i : Info} (hs : P s) (hu : P u)
    (hret : ∀ s x, P s → P (s.setRet x)) : P (raiseEnd s e i u) := by
  unfold raiseEnd
  split
  · exact hret _ _ hs
  · exact hret _ _ hu

/-- A property that what the caller is told does not touch holds of the next state if it holds where the operation began
and of every end of its lines. -/
theorem finish_of_all {P : State → Prop} {s : State} {r : Res Value} {t : State} (h : finish s r = .next t) (hs : P s)
    (hr : r.All P) (hret : ∀ s x, P s → P (s.setRet x)) : P t := by
  obtain ⟨v, u, rfl, rfl⟩ | ⟨e, i, u, rfl, rfl⟩ := finish_inv h
  · exact hret _ _ hr
  · exact raiseEnd_of hs hr hret

/-! ### The primitives change their own channel only -/

/-- `t` differs from `s` on channel `c`, in the fatal mark, and nowhere else. -/
structure OnlyOn (c : Channel) (s t : State) : Prop where
  chan : ∀ d, d ≠ c → t.chan d = s.chan d
  env : ∀ d, d ≠ c → t.env d = s.env d
  program : t.program = s.program
  agenda : t.agenda = s.agenda

theorem OnlyOn.rfl' (c : Channel) (s : State) : OnlyOn c s s := ⟨fun _ _ => rfl, fun _ _ => rfl, rfl, rfl⟩

theorem OnlyOn.trans {c : Channel} {s t u : State} (h : OnlyOn c s t) (k : OnlyOn c t u) : OnlyOn c s u :=
  ⟨fun d hd => (k.chan d hd).trans (h.chan d hd), fun d hd => (k.env d hd).trans (h.env d hd),
    k.program.trans h.program, k.agenda.trans h.agenda⟩

theorem OnlyOn.setChan {c : Channel} {s t : State} (h : OnlyOn c s t) (x : Chan) : OnlyOn c s (t.setChan c x) :=
  ⟨fun d hd => (State.setChan_chan_ne _ _ _ _ hd).trans (h.chan d hd), fun d hd => by simpa using h.env d hd,
    by simpa using h.program, by simpa using h.agenda⟩

theorem OnlyOn.setEnv {c : Channel} {s t : State} (h : OnlyOn c s t) (e : Env) : OnlyOn c s (t.setEnv c e) :=
  ⟨fun d hd => by simpa using h.chan d hd, fun d hd => (State.setEnv_env_ne _ _ _ _ hd).trans (h.env d hd),
    by simpa using h.program, by simpa using h.agenda⟩

theorem OnlyOn.emit {c : Channel} {s t : State} (h : OnlyOn c s t) (ev : BusEvent) : OnlyOn c s (t.emit c ev) :=
  h.setChan _

theorem OnlyOn.abort {c : Channel} {s t : State} (h : OnlyOn c s t) : OnlyOn c s t.abort :=
  ⟨fun d hd => by simpa using h.chan d hd, fun d hd => by simpa using h.env d hd, h.program, h.agenda⟩

theorem OnlyOn.withRet {c : Channel} {s t : State} (r : Ret) (h : OnlyOn c s t) : OnlyOn c s (t.setRet r) :=
  ⟨fun d hd => by simpa using h.chan d hd, fun d hd => by simpa using h.env d hd, h.program, h.agenda⟩

theorem onBus_onlyOn {α : Type} {c : Channel} {s₀ s : State} (h : OnlyOn c s₀ s) {k : State → Res α}
    (hk : ∀ s, OnlyOn c s₀ s → (k s).All (OnlyOn c s₀)) : (onBus c s k).All (OnlyOn c s₀) := by
  obtain hr | ⟨b, hr⟩ := onBus_cases c s k
  · rw [hr]; exact h.abort
  · rw [hr]; exact hk _ (h.setEnv _)

theorem busLock_onlyOn {c : Channel} {slot : DeviceSlot} {s₀ s : State} (h : OnlyOn c s₀ s) :
    OnlyOn c s₀ (busLock c slot s).2 := by
  unfold busLock; split
  · exact (h.setChan _).emit _
  · exact h

theorem busUnlock_onlyOn {c : Channel} {s₀ s : State} (h : OnlyOn c s₀ s) :
    (busUnlock c s).All (OnlyOn c s₀) := by
  unfold busUnlock; split
  · exact (h.setChan _).emit _
  · exact h

theorem busSelect_onlyOn {c : Channel} {slot : DeviceSlot} {sp : Speed} {s₀ s : State} (h : OnlyOn c s₀ s) :
    (busSelect c slot sp s).All (OnlyOn c s₀) := by
  unfold busSelect; split
  · exact onBus_onlyOn h fun _ h => ((h.setChan _).emit _).setEnv _
  · exact h

theorem busDeselect_onlyOn {c : Channel} {s₀ s : State} (h : OnlyOn c s₀ s) :
    (busDeselect c s).All (OnlyOn c s₀) := by
  unfold busDeselect; split
  · exact onBus_onlyOn h fun _ h => ((h.setChan _).emit _).setEnv _
  · exact h

theorem busImmWrite_onlyOn {c : Channel} {bytes : List Byte} {s₀ s : State} (h : OnlyOn c s₀ s) :
    (busImmWrite c bytes s).All (OnlyOn c s₀) := by
  unfold busImmWrite; split
  · exact onBus_onlyOn h fun _ h => (h.emit _).setEnv _
  · exact h

theorem busImmRead_onlyOn {c : Channel} {n : Nat} {s₀ s : State} (h : OnlyOn c s₀ s) :
    (busImmRead c n s).All (OnlyOn c s₀) := by
  unfold busImmRead; split
  · exact onBus_onlyOn h fun _ h => (h.emit _).setEnv _
  · exact h

theorem busDmaIssue_onlyOn {c : Channel} {kind : DmaKind} {dir : DmaDir} {len : Nat} {s₀ s : State}
    (h : OnlyOn c s₀ s) : (busDmaIssue c kind dir len s).All (OnlyOn c s₀) := by
  unfold busDmaIssue; split
  · exact onBus_onlyOn h fun _ h => (h.setChan _).emit _
  · exact h

end Sys2Proof.Machine
end

