-- ==== Sys2Proof/Laws/Memory.lean ====
section
/-! SUPPORT. The laws of the byte-addressed spaces: a read after a write, and every memory operation keeps the canonical
form. The read laws hold of any list of cells, canonical or not. -/

namespace Sys2Proof.Machine

/-! ### Reading after writing -/

theorem Memory.lookup_put_self (m : List Host.Cell) (a : Nat) (v : Byte) :
    Memory.lookup (Memory.put m a v) a = some v := by
  induction m with
  | nil => simp [Memory.put, Memory.lookup]
  | cons h m ih =>
    obtain ⟨b, w⟩ := h
    unfold Memory.put
    split
    · simp [Memory.lookup]
    · split
      · simp [Memory.lookup]
      · next h => simpa [Memory.lookup, h] using ih

theorem Memory.lookup_put_ne (m : List Host.Cell) {a d : Nat} (v : Byte) (h : d ≠ a) :
    Memory.lookup (Memory.put m a v) d = Memory.lookup m d := by
  induction m with
  | nil => simp [Memory.put, Memory.lookup, h]
  | cons p m ih =>
    obtain ⟨b, w⟩ := p
    unfold Memory.put
    split
    · simp [Memory.lookup, h]
    · split
      · next hab => subst hab; simp [Memory.lookup, h]
      · simp [Memory.lookup, ih]

theorem Memory.lookup_del_self (m : List Host.Cell) (a : Nat) : Memory.lookup (Memory.del m a) a = none := by
  induction m with
  | nil => rfl
  | cons p m ih =>
    obtain ⟨b, w⟩ := p
    unfold Memory.del
    split
    · exact ih
    · next h => simpa [Memory.lookup, h] using ih

theorem Memory.lookup_del_ne (m : List Host.Cell) {a d : Nat} (h : d ≠ a) :
    Memory.lookup (Memory.del m a) d = Memory.lookup m d := by
  induction m with
  | nil => rfl
  | cons p m ih =>
    obtain ⟨b, w⟩ := p
    unfold Memory.del
    split
    · next hab => subst hab; simpa [Memory.lookup, h] using ih
    · simp [Memory.lookup, ih]

theorem Memory.read_write_self (sp : Space) (m : List Host.Cell) (a : Nat) (v : Byte) :
    Memory.read sp (Memory.write sp m a v) a = some v := by
  unfold Memory.write
  split
  · next h => simp [Memory.read, Memory.lookup_del_self, h]
  · simp [Memory.read, Memory.lookup_put_self]

theorem Memory.read_write_ne (sp : Space) (m : List Host.Cell) {a d : Nat} (v : Byte) (h : d ≠ a) :
    Memory.read sp (Memory.write sp m a v) d = Memory.read sp m d := by
  unfold Memory.write
  split
  · simp [Memory.read, Memory.lookup_del_ne _ h]
  · simp [Memory.read, Memory.lookup_put_ne _ _ h]

@[simp] theorem Memory.byteAt_write_self (sp : Space) (base : Nat → Byte) (m : List Host.Cell) (a : Nat) (v : Byte) :
    Memory.byteAt sp base (Memory.write sp m a v) a = v := by
  simp [Memory.byteAt, Memory.read_write_self]

theorem Memory.byteAt_write_ne (sp : Space) (base : Nat → Byte) (m : List Host.Cell) {a d : Nat} (v : Byte) (h : d ≠ a) :
    Memory.byteAt sp base (Memory.write sp m a v) d = Memory.byteAt sp base m d := by
  simp [Memory.byteAt, Memory.read_write_ne _ _ _ h]

/-- A run of writes is read back byte by byte. -/
theorem Memory.byteAt_writeBytes (sp : Space) (base : Nat → Byte) (m : List Host.Cell) (a : Nat) (vs : List Byte) (d : Nat) :
    Memory.byteAt sp base (Memory.writeBytes sp m a vs) d =
      if a ≤ d then (vs[d - a]?).getD (Memory.byteAt sp base m d) else Memory.byteAt sp base m d := by
  induction vs generalizing a with
  | nil => simp [Memory.writeBytes]
  | cons v vs ih =>
    unfold Memory.writeBytes
    by_cases h : d = a
    · subst h; simp
    · rw [Memory.byteAt_write_ne _ _ _ _ h, ih]
      by_cases hle : a ≤ d
      · obtain ⟨k, rfl⟩ : ∃ k, d = a + 1 + k := ⟨d - (a + 1), by omega⟩
        rw [if_pos (by omega), if_pos hle, show a + 1 + k - a = k + 1 by omega]
        simp
      · rw [if_neg (by omega), if_neg hle]

/-- Writes at listed addresses, each with the byte its address names, change those addresses only. -/
theorem Memory.byteAt_writeEach (sp : Space) (base : Nat → Byte) (f : Nat → Byte) (as : List Nat) (m : List Host.Cell)
    (d : Nat) : Memory.byteAt sp base (Memory.writeEach sp f as m) d = if d ∈ as then f d else Memory.byteAt sp base m d := by
  induction as with
  | nil => simp [Memory.writeEach]
  | cons a as ih =>
    unfold Memory.writeEach
    by_cases h : d = a
    · subst h; simp
    · rw [Memory.byteAt_write_ne _ _ _ _ h, ih]
      simp [h]

/-- What the buffers hold unwritten does not depend on the card. -/
theorem Memory.initial_wbuf (c : Channel) (n : Nat) : Memory.initial .wbuf c n = BitVec.ofNat 8 := rfl
theorem Memory.initial_rbuf (c : Channel) (n : Nat) : Memory.initial .rbuf c n = Config.rbufInit c := rfl

/-! ### The canonical form is kept -/

theorem Memory.wfFrom_cons {sp : Space} {lo b : Nat} {w : Byte} {m : List Host.Cell} :
    Memory.wfFrom sp lo ((b, w) :: m) = true ↔
      lo ≤ b ∧ Memory.unlisted sp b ≠ some w ∧ Memory.wfFrom sp (b + 1) m = true := by
  simp [Memory.wfFrom, and_assoc]

theorem Memory.wfFrom_mono {sp : Space} {lo lo' : Nat} {m : List Host.Cell} (h : Memory.wfFrom sp lo m = true)
    (hle : lo' ≤ lo) : Memory.wfFrom sp lo' m = true := by
  cases m with
  | nil => rfl
  | cons p m =>
    rw [Memory.wfFrom_cons] at h ⊢
    exact ⟨by omega, h.2⟩

theorem Memory.wfFrom_put {sp : Space} {lo a : Nat} {v : Byte} {m : List Host.Cell} (h : Memory.wfFrom sp lo m = true)
    (ha : lo ≤ a) (hv : Memory.unlisted sp a ≠ some v) : Memory.wfFrom sp lo (Memory.put m a v) = true := by
  induction m generalizing lo with
  | nil => exact Memory.wfFrom_cons.2 ⟨ha, hv, rfl⟩
  | cons p m ih =>
    obtain ⟨b, w⟩ := p
    obtain ⟨h1, h2, h3⟩ := Memory.wfFrom_cons.1 h
    unfold Memory.put
    split
    · exact Memory.wfFrom_cons.2 ⟨ha, hv, Memory.wfFrom_cons.2 ⟨by omega, h2, h3⟩⟩
    · split
      · next hab => subst hab; exact Memory.wfFrom_cons.2 ⟨ha, hv, h3⟩
      · exact Memory.wfFrom_cons.2 ⟨h1, h2, ih h3 (by omega)⟩

theorem Memory.wfFrom_del {sp : Space} {lo a : Nat} {m : List Host.Cell} (h : Memory.wfFrom sp lo m = true) :
    Memory.wfFrom sp lo (Memory.del m a) = true := by
  induction m generalizing lo with
  | nil => rfl
  | cons p m ih =>
    obtain ⟨b, w⟩ := p
    obtain ⟨h1, h2, h3⟩ := Memory.wfFrom_cons.1 h
    unfold Memory.del
    split
    · exact Memory.wfFrom_mono (ih h3) (by omega)
    · exact Memory.wfFrom_cons.2 ⟨h1, h2, ih h3⟩

/-- A write keeps the canonical form. -/
theorem Memory.wf_write {sp : Space} {a : Nat} {v : Byte} {m : List Host.Cell} (h : Memory.wf sp m = true) :
    Memory.wf sp (Memory.write sp m a v) = true := by
  unfold Memory.write
  split
  · exact Memory.wfFrom_del h
  · next hv => exact Memory.wfFrom_put h (Nat.zero_le _) hv

theorem Memory.wf_writeBytes {sp : Space} {a : Nat} {vs : List Byte} {m : List Host.Cell}
    (h : Memory.wf sp m = true) : Memory.wf sp (Memory.writeBytes sp m a vs) = true := by
  induction vs generalizing a with
  | nil => exact h
  | cons v vs ih => exact Memory.wf_write ih

theorem Memory.wf_writeEach {sp : Space} {f : Nat → Byte} {as : List Nat} {m : List Host.Cell}
    (h : Memory.wf sp m = true) : Memory.wf sp (Memory.writeEach sp f as m) = true := by
  induction as with
  | nil => exact h
  | cons a as ih => exact Memory.wf_write ih

/-- The memories of the reset state are in canonical form: they list nothing. -/
theorem Memory.wf_reset (sp : Space) (c : Channel) : Memory.wf sp (State.reset.mem sp c) = true := by
  cases sp <;> cases c <;> rfl

/-! ### No operation lists an address outside what it was given -/

theorem Memory.mem_put {m : List Host.Cell} {a : Nat} {v : Byte} {p : Host.Cell} (h : p ∈ Memory.put m a v) :
    p = (a, v) ∨ p ∈ m := by
  induction m with
  | nil => simpa [Memory.put] using h
  | cons q m ih =>
    unfold Memory.put at h
    split at h
    · simpa using h
    · split at h
      · simp only [List.mem_cons] at h ⊢
        exact h.imp_right .inr
      · simp only [List.mem_cons] at h ⊢
        exact h.elim (fun h => .inr (.inl h)) fun h => (ih h).imp_right .inr

theorem Memory.mem_del {m : List Host.Cell} {a : Nat} {p : Host.Cell} (h : p ∈ Memory.del m a) : p ∈ m := by
  induction m with
  | nil => exact h
  | cons q m ih =>
    unfold Memory.del at h
    split at h
    · exact List.mem_cons_of_mem _ (ih h)
    · simp only [List.mem_cons] at h ⊢
      exact h.imp_right ih

theorem Memory.mem_write {sp : Space} {m : List Host.Cell} {a : Nat} {v : Byte} {p : Host.Cell}
    (h : p ∈ Memory.write sp m a v) : p = (a, v) ∨ p ∈ m := by
  unfold Memory.write at h
  split at h
  · exact .inr (Memory.mem_del h)
  · exact Memory.mem_put h

end Sys2Proof.Machine
end

