-- ==== Sys2Proof/Laws/Spans.lean ====
section
/-! SUPPORT. What a whole span does on a free channel: opening it, each wire sequence inside it, closing it, and what a
begin operation leaves. Each lemma gives the end of the lines as ONE update of the channel and of its environment. -/

namespace Sys2Proof.Machine

open Sys2Proof.Safety

/-! ### What the parts of a state keep -/

/-- A state updated on one channel keeps everything outside it. -/
theorem outsideKept_update {c : Channel} {s : State} {x : Chan} {e : Env} {r : Ret} :
    OutsideKept c s (((s.setChan c x).setEnv c e).setRet r) := by
  have h := (((OnlyOn.rfl' c s).setChan x).setEnv e).withRet r
  exact ⟨fun d hd => ⟨h.chan d hd, h.env d hd⟩, by simp, by simp, by simp⟩

/-- A state updated on one channel keeps the bytes of its three memories if the update does. -/
theorem memoryKept_update {c : Channel} {s : State} {x : Chan} {e : Env} {r : Ret} (hw : x.wbuf = (s.chan c).wbuf)
    (hr : x.rbuf = (s.chan c).rbuf) (he : e.card.storage = (s.env c).card.storage)
    (hn : e.card.content = (s.env c).card.content) :
    MemoryKept c s (((s.setChan c x).setEnv c e).setRet r) := by
  intro sp a
  cases sp <;> simp [State.byteAt, State.mem, hw, hr, he, hn]

/-- A state updated on one channel keeps the environment's fixed parts if the update does. -/
theorem envKept_update {c : Channel} {s : State} {x : Chan} {r : Ret} {e : Env}
    (h1 : e.attached = (s.env c).attached) (h2 : e.busErrorIn = (s.env c).busErrorIn)
    (h0 : e.buffers = (s.env c).buffers) (h3 : e.card.model = (s.env c).card.model)
    (h4 : e.card.cardId = (s.env c).card.cardId)
    (h5 : e.card.intEnable = (s.env c).card.intEnable) :
    EnvKept c s (((s.setChan c x).setEnv c e).setRet r) := by
  refine ⟨?_, ?_, ?_, ?_, ?_, ?_⟩ <;> simp [*]

/-! ### What the card makes of received bytes -/

theorem dataPart_short {n : Nat} {bs : List Byte} (h : n + bs.length ≤ 5) : dataPart n bs = [] := by
  unfold dataPart
  rw [List.drop_eq_nil_of_le (by omega)]
  simp

theorem storePage_nil {f : Nat → Byte} {st : List Host.Cell} {o p : Nat} : storePage f st o p [] = st := by
  simp [storePage, Memory.writeBytes]

/-- A command whose first byte is an opcode is taken as R77 and R78 say, and nothing else happens at the card. -/
theorem Env.receive_known {e : Env} {c : Channel} {bs : List Byte} (h : strayCmd (e.card.cmdAfter bs) = false) :
    e.receive c bs = e.accept c bs := Env.stray_of_not h

theorem Env.receive_strays {e : Env} {c : Channel} {bs : List Byte} :
    (e.receive c bs).card.strays = strayCmd (e.card.cmdAfter bs) := by
  simp [Card.strays, Card.cmdAfter]

/-- Reading in a span that begins with an opcode is only the sending of the bytes. -/
theorem Env.afterSend_known {e : Env} {c : Channel} {n : Nat} (h : e.card.strays = false) :
    e.afterSend c n = e.send n := Env.stray_of_not h

@[simp] theorem Env.accept_storage_content (e : Env) (c : Channel) (bs : List Byte) :
    (e.accept c bs).card.content = e.card.content := rfl

/-- The first five bytes of a span store nothing. -/
theorem Env.receive_storage_short {e : Env} {c : Channel} {bs : List Byte}
    (hk : strayCmd (e.card.cmdAfter bs) = false) (h : e.card.received + bs.length ≤ 5) :
    (e.receive c bs).card.storage = e.card.storage := by
  simp [Env.receive_known hk, Env.accept, dataPart_short h, storePage_nil]

/-- No command but PAGE_PROGRAM stores anything. -/
theorem Env.receive_storage_other {e : Env} {c : Channel} {bs : List Byte}
    (hk : strayCmd (e.card.cmdAfter bs) = false) (h : (e.card.cmdAfter bs).head? ≠ some 0xF2) :
    (e.receive c bs).card.storage = e.card.storage := by
  rw [Env.receive_known hk]
  simp only [Env.accept, if_neg h]

/-- A known command keeps the unspecified content of the card. -/
theorem Env.receive_content {e : Env} {c : Channel} {bs : List Byte} (hk : strayCmd (e.card.cmdAfter bs) = false) :
    (e.receive c bs).card.content = e.card.content := by
  rw [Env.receive_known hk]; rfl

/-- No command but ENABLE_INT changes the interrupt enable. -/
theorem Env.receive_intEnable_other {e : Env} {c : Channel} {bs : List Byte}
    (hk : strayCmd (e.card.cmdAfter bs) = false) (h : (e.card.cmdAfter bs).head? ≠ some 0x81) :
    (e.receive c bs).card.intEnable = e.card.intEnable := by
  rw [Env.receive_known hk]
  simp only [Env.accept, h, and_false, if_false]

/-- What a read leaves of the card's storage, content and interrupt enable in a span that begins with an opcode. -/
theorem Env.afterSend_keeps {e : Env} {c : Channel} {n : Nat} (h : e.card.strays = false) :
    (e.afterSend c n).card.storage = e.card.storage ∧ (e.afterSend c n).card.content = e.card.content ∧
      (e.afterSend c n).card.intEnable = e.card.intEnable := by
  rw [Env.afterSend_known h]
  exact ⟨rfl, rfl, rfl⟩

/-- A card command received at the start of a span changes nothing the card holds but, for ENABLE_INT, its interrupt
enable; and the span then begins with an opcode. -/
theorem Env.receive_command {e : Env} {c : Channel} {bs : List Byte} (hc : e.card.cmd = []) (hr : e.card.received = 0)
    (hk : strayCmd (bs.take 5) = false) (hl : bs.length ≤ 5) :
    (e.receive c bs).card.storage = e.card.storage ∧ (e.receive c bs).card.content = e.card.content ∧
      (e.receive c bs).card.strays = false ∧
      (bs.head? ≠ some 0x81 → (e.receive c bs).card.intEnable = e.card.intEnable) := by
  have h : e.card.cmdAfter bs = bs.take 5 := by simp [Card.cmdAfter, hc]
  have hk' : strayCmd (e.card.cmdAfter bs) = false := h ▸ hk
  refine ⟨Env.receive_storage_short hk' (by omega), Env.receive_content hk', Env.receive_strays.trans hk',
    fun h8 => Env.receive_intEnable_other hk' ?_⟩
  rw [h]
  cases bs <;> simp_all

/-! ### The counter of the free values only grows -/

theorem Env.stray_draws_le (e : Env) (c : Channel) : e.draws ≤ (e.stray c).draws := by
  unfold Env.stray
  split
  · exact Nat.le_succ _
  · exact Nat.le_refl _

theorem Env.receive_draws_le (e : Env) (c : Channel) (bs : List Byte) : e.draws ≤ (e.receive c bs).draws :=
  Nat.le_trans (Nat.le_add_right _ _) (Env.stray_draws_le (e.accept c bs) c)

theorem Env.afterSend_draws_le (e : Env) (c : Channel) (n : Nat) : e.draws ≤ (e.afterSend c n).draws :=
  Nat.le_trans (Nat.le_add_right _ _) (Env.stray_draws_le (e.send n) c)

/-! ### What the card answers -/

theorem Env.answers_one (e : Env) (c : Channel) : e.answers c 1 = [e.answer c 0] := by
  simp [Env.answers, List.range_succ]

theorem Env.answers_two (e : Env) (c : Channel) : e.answers c 2 = [e.answer c 0, e.answer c 1] := by
  simp [Env.answers, List.range_succ]

/-- The received identification word is its two bytes, most significant first. -/
theorem idOfResponse_pair (a b : Byte) : idOfResponse [a, b] = a ++ b := by
  apply BitVec.eq_of_toNat_eq
  have := a.isLt
  have := b.isLt
  simp [idOfResponse]
  rw [BitVec.toNat_append, Nat.mod_eq_of_lt (by omega), Nat.mod_eq_of_lt (by omega), Nat.shiftLeft_eq,
    Nat.mod_eq_of_lt (by omega)]

/-- The ready mask is one bit, so it is not zero. -/
theorem readyMask_ne_zero : Config.readyMask ≠ 0 := by
  intro h
  have := congrArg (fun x => x.getLsbD Config.readyBit.val) h
  simp [Config.readyMask] at this

/-! ### Opening and closing -/

/-- The state of a span just opened on a free channel. -/
def openedSpan (c : Channel) (sp : Speed) (s : State) : State :=
  (s.setChan c { s.chan c with
    lockOwner := some .card
    sel := some ⟨.card, sp⟩
    fsm := .commandSent
    trace := (s.chan c).trace ++ [.lock .card, .select .card sp] }).setEnv c (s.env c).newSpan

theorem openSpan_free {c : Channel} {sp : Speed} {s : State} (h : ChannelFree c s) (hb : NoBusError c s) :
    openSpan c sp s = .ok () (openedSpan c sp s) := by
  obtain ⟨ha, hat, hl, hs, hf, hd⟩ := h
  simp only [openSpan, unlessAborted_clear _ ha, hat, busLock_free hl]
  simp [busSelect_ok, hs, hb, openedSpan]

/-- A command in a full transaction on a free channel, from what the command does in the span just opened. -/
theorem inSpan_free {α : Type} {c : Channel} {sp : Speed} {s : State} {body : State → Res α} {a : α}
    {evs : List BusEvent} {e : Env} (h : ChannelFree c s) (hb : NoBusError c s) (he : e.busErrorIn = none)
    (hbody : body (openedSpan c sp s) = .ok a (((openedSpan c sp s).setChan c { (openedSpan c sp s).chan c with
      trace := ((openedSpan c sp s).chan c).trace ++ evs }).setEnv c e)) :
    inSpan c sp s body = .ok a ((s.setChan c { s.chan c with
      trace := (s.chan c).trace ++ ([.lock .card, .select .card sp] ++ evs ++ [.deselect, .unlock]) }).setEnv c
        e.newSpan) := by
  have h' := h
  obtain ⟨ha, hat, hl, hs, hf, hd⟩ := h'
  unfold inSpan
  rw [openSpan_free h hb]
  simp only [Res.andThen_ok, hbody, closeSpan]
  rw [busDeselect_ok (by simp [openedSpan]) (by simp [openedSpan, hd]) (by simp [he])]
  simp only [Res.andThen_ok]
  rw [busUnlock_ok (by simp [openedSpan]) (by simp)]
  simp [openedSpan, ← hl, ← hs, ← hf]

/-! ### The wire sequences -/

theorem wireIdentify_ok {c : Channel} {s : State} (hs : (s.chan c).sel ≠ none) (hd : (s.chan c).dma = none)
    (hb : NoBusError c s) :
    wireIdentify c s = .ok (idOfResponse (((s.env c).receive c cmdIdentify).answers c 2))
      ((s.setChan c { s.chan c with trace := (s.chan c).trace ++
        [.immWrite cmdIdentify, .immRead (((s.env c).receive c cmdIdentify).answers c 2)] }).setEnv c
        (((s.env c).receive c cmdIdentify).afterSend c 2)) := by
  unfold wireIdentify
  rw [busImmWrite_ok hs hd hb]
  simp only [Res.andThen_ok]
  rw [busImmRead_ok (by omega) (by simpa using hs) (by simpa using hd) (by simpa using hb)]
  simp

theorem wireStatus_ok {c : Channel} {s : State} (hs : (s.chan c).sel ≠ none) (hd : (s.chan c).dma = none)
    (hb : NoBusError c s) :
    wireStatus c s = .ok (statusOfResponse (((s.env c).receive c cmdStatus).answers c 1))
      ((s.setChan c { s.chan c with trace := (s.chan c).trace ++
        [.immWrite cmdStatus, .immRead (((s.env c).receive c cmdStatus).answers c 1)] }).setEnv c
        (((s.env c).receive c cmdStatus).afterSend c 1)) := by
  unfold wireStatus
  rw [busImmWrite_ok hs hd hb]
  simp only [Res.andThen_ok]
  rw [busImmRead_ok (by omega) (by simpa using hs) (by simpa using hd) (by simpa using hb)]
  simp

/-- The dummy bytes are those of the read buffer, whatever else differs. -/
theorem dummyBytes_congr {c : Channel} {n : Nat} {s t : State} (h : (t.chan c).rbuf = (s.chan c).rbuf) :
    dummyBytes t c n = dummyBytes s c n := by
  simp [dummyBytes, State.readBytes, State.byteAt, h, Memory.initial_rbuf]

theorem wirePageProgram_ok {c : Channel} {o : Word} {s : State}
    (hk : (s.env c).aligned .program = true) (hs : (s.chan c).sel ≠ none)
    (hd : (s.chan c).dma = none) (hb : NoBusError c s) :
    wirePageProgram c o s = .ok () ((s.setChan c { s.chan c with
      fsm := .awaitingDMA
      dma := some ⟨.program, .toCard, 128, false⟩
      trace := (s.chan c).trace ++ [.immWrite (cmdPageProgram o), .dmaIssue .program .toCard 128] }).setEnv c
        ((s.env c).receive c (cmdPageProgram o))) := by
  unfold wirePageProgram
  rw [busImmWrite_ok hs hd hb]
  simp only [Res.andThen_ok]
  rw [show busDmaIssue c .program .toCard Config.writeBufLen = busDmaIssue c .program DmaKind.program.dir
      DmaKind.program.len from rfl,
    busDmaIssue_ok (by simpa [toAwaitingDma] using hk) (by simpa [toAwaitingDma] using hs)
      (by simpa [toAwaitingDma] using hd) (by simp [toAwaitingDma])
      (by simpa [toAwaitingDma] using hb)]
  simp [toAwaitingDma, DmaKind.dir, DmaKind.len, Config.writeBufLen]

theorem wirePageRead_ok {c : Channel} {o : Word} {n : Nat} {s : State}
    (hk : (s.env c).aligned .read = true) (hs : (s.chan c).sel ≠ none)
    (hd : (s.chan c).dma = none) (hb : NoBusError c s) :
    wirePageRead c o n s = .ok () ((s.setChan c { s.chan c with
      fsm := .awaitingDMA
      dma := some ⟨.read, .fromCard, 512, false⟩
      trace := (s.chan c).trace ++ [.immWrite (cmdPageRead o), .immWrite (dummyBytes s c n),
        .dmaIssue .read .fromCard 512] }).setEnv c
        (((s.env c).receive c (cmdPageRead o)).receive c (dummyBytes s c n))) := by
  unfold wirePageRead
  rw [busImmWrite_ok hs hd hb]
  simp only [Res.andThen_ok]
  rw [dummyBytes_congr (s := s) (by simp)]
  rw [busImmWrite_ok (by simpa [toAwaitingDma] using hs) (by simpa [toAwaitingDma] using hd)
      (by simpa [toAwaitingDma] using hb)]
  simp only [Res.andThen_ok]
  rw [show busDmaIssue c .read .fromCard Config.readBufLen = busDmaIssue c .read DmaKind.read.dir
      DmaKind.read.len from rfl,
    busDmaIssue_ok (by simpa [toAwaitingDma] using hk) (by simpa [toAwaitingDma] using hs)
      (by simpa [toAwaitingDma] using hd) (by simp [toAwaitingDma])
      (by simpa [toAwaitingDma] using hb)]
  simp [toAwaitingDma, DmaKind.dir, DmaKind.len, Config.readBufLen]

/-! ### Beginning a transfer -/

theorem openBegin_free {c : Channel} {sp : Speed} {kind : DmaKind} {s : State} (h : ChannelFree c s)
    (hb : NoBusError c s) (hf : (s.chan c).flag kind = true) :
    openBegin c sp kind s = .ok () ((s.setChan c { (s.chan c).setFlag kind false with
      lockOwner := some .card
      sel := some ⟨.card, sp⟩
      fsm := .commandSent
      trace := (s.chan c).trace ++ [.lock .card, .select .card sp] }).setEnv c (s.env c).newSpan) := by
  obtain ⟨ha, hat, hl, hs, -, -⟩ := h
  simp only [openBegin, unlessAborted_clear _ ha, hat, busLock_free hl, hf]
  simp [busSelect_ok, hs, hb]
  cases kind <;> rfl

/-! ### The shared sequences change their own channel only -/

theorem wireIdentify_onlyOn {c : Channel} {s₀ s : State} (h : OnlyOn c s₀ s) : (wireIdentify c s).All (OnlyOn c s₀) :=
  Res.all_andThen (busImmWrite_onlyOn h) fun _ _ h => Res.all_andThen (busImmRead_onlyOn h) fun _ _ h => h

theorem wireStatus_onlyOn {c : Channel} {s₀ s : State} (h : OnlyOn c s₀ s) : (wireStatus c s).All (OnlyOn c s₀) :=
  Res.all_andThen (busImmWrite_onlyOn h) fun _ _ h => Res.all_andThen (busImmRead_onlyOn h) fun _ _ h => h

theorem wirePageProgram_onlyOn {c : Channel} {o : Word} {s₀ s : State} (h : OnlyOn c s₀ s) :
    (wirePageProgram c o s).All (OnlyOn c s₀) :=
  Res.all_andThen (busImmWrite_onlyOn h) fun _ _ h => busDmaIssue_onlyOn (h.setChan _)

theorem wirePageRead_onlyOn {c : Channel} {o : Word} {n : Nat} {s₀ s : State} (h : OnlyOn c s₀ s) :
    (wirePageRead c o n s).All (OnlyOn c s₀) :=
  Res.all_andThen (busImmWrite_onlyOn h) fun _ _ h =>
    Res.all_andThen (busImmWrite_onlyOn (h.setChan _)) fun _ _ h => busDmaIssue_onlyOn h

theorem openSpan_onlyOn {c : Channel} {sp : Speed} {s₀ s : State} (h : OnlyOn c s₀ s) :
    (openSpan c sp s).All (OnlyOn c s₀) := by
  unfold openSpan
  refine Res.all_unlessAborted h fun _ => ?_
  split
  · exact h
  · have hl := busLock_onlyOn (slot := .card) h
    split <;> next e => rw [e] at hl; first | exact hl | exact busSelect_onlyOn hl

theorem closeSpan_onlyOn {c : Channel} {s₀ s : State} (h : OnlyOn c s₀ s) : (closeSpan c s).All (OnlyOn c s₀) :=
  Res.all_andThen (busDeselect_onlyOn h) fun _ _ h => busUnlock_onlyOn h

theorem inSpan_onlyOn {α : Type} {c : Channel} {sp : Speed} {s₀ s : State} {body : State → Res α} (h : OnlyOn c s₀ s)
    (hb : ∀ s, OnlyOn c s₀ s → (body s).All (OnlyOn c s₀)) : (inSpan c sp s body).All (OnlyOn c s₀) :=
  Res.all_andThen (openSpan_onlyOn h) fun _ _ h => Res.all_andThen (hb _ h) fun _ _ h =>
    Res.all_andThen (closeSpan_onlyOn h) fun _ _ h => h

theorem openBegin_onlyOn {c : Channel} {sp : Speed} {kind : DmaKind} {s₀ s : State} (h : OnlyOn c s₀ s) :
    (openBegin c sp kind s).All (OnlyOn c s₀) := by
  unfold openBegin
  refine Res.all_unlessAborted h fun _ => ?_
  split
  · exact h
  · split
    · exact h
    · have hl := busLock_onlyOn (slot := .card) h
      split <;> next e => rw [e] at hl; first | exact hl | exact busSelect_onlyOn (hl.setChan _)

end Sys2Proof.Machine
end

