-- ==== Sys2Proof/Laws/Agents.lean ====
section
/-! SUPPORT. What each agent's step does where its guard holds: the two steps of the DMA engine, the completion
callback and the card interrupt, each as ONE update of the channel and of its environment. -/

namespace Sys2Proof.Machine

open Sys2Proof.Safety

/-- The program DMA performs: the card receives the data, the trace and the mark record it. -/
theorem dmaPerform_program {c : Channel} {len : Nat} {s : State} (ha : s.aborted = false) (hb : NoBusError c s)
    (hd : (s.chan c).dma = some ⟨.program, .toCard, len, false⟩) :
    dmaPerform c s = (s.setChan c { s.chan c with
      dma := some ⟨.program, .toCard, len, true⟩
      trace := (s.chan c).trace ++ [.dmaData .toCard (programData c s)] }).setEnv c
        ((s.env c).receive c (programData c s)) := by
  simp [dmaPerform, hd, ha, onBus_clear _ hb, moveData, markPerformed, State.emit]

/-- The read DMA performs: the card's bytes land in the read buffer, the trace and the mark record it. -/
theorem dmaPerform_read {c : Channel} {len : Nat} {s : State} (ha : s.aborted = false) (hb : NoBusError c s)
    (hd : (s.chan c).dma = some ⟨.read, .fromCard, len, false⟩) :
    dmaPerform c s = (s.setChan c { s.chan c with
      dma := some ⟨.read, .fromCard, len, true⟩
      rbuf := Memory.writeBytes .rbuf (s.chan c).rbuf 0 ((s.env c).answers c 512)
      trace := (s.chan c).trace ++ [.dmaData .fromCard ((s.env c).answers c 512)] }).setEnv c
        ((s.env c).afterSend c 512) := by
  simp [dmaPerform, hd, ha, onBus_clear _ hb, moveData, markPerformed, Config.readBufLen]

/-- Without a raced store the write buffer itself is what the program DMA sends. -/
theorem programData_unraced {c : Channel} {s : State} (h : (s.chan c).wbufRaced = []) :
    programData c s = (List.range 128).map fun i => s.byteAt .wbuf c i := by
  simp [programData, h, Config.writeBufLen]

/-- The channel's state once the callback of a kind of DMA has run on it. -/
def callbackChan (c : Channel) (kind : DmaKind) (e : Env) (x : Chan) : Chan :=
  let x : Chan := { x.setFlag kind true with
    dma := none
    sel := none
    fsm := .idle
    lockOwner := none
    trace := x.trace ++ [.dmaComplete kind, .deselect, .unlock] }
  match kind with
  | .program => { x with wbufRaced := [] }
  | .read => { x with rbuf := Memory.writeEach .rbuf (e.draw c) x.rbufRaced x.rbuf, rbufRaced := [] }

/-- The environment once the callback of a kind of DMA has run. -/
def callbackEnv (kind : DmaKind) (e : Env) : Env :=
  match kind with
  | .program => e.newSpan
  | .read => (e.drawn Config.readBufLen).newSpan

/-- A performed DMA completes: its flag is set and the channel is released. -/
theorem dmaComplete_performed {c : Channel} {d : Dma} {s : State} (ha : s.aborted = false) (hb : NoBusError c s)
    (hd : (s.chan c).dma = some d) (hp : d.performed = true) (hs : (s.chan c).sel ≠ none)
    (hl : (s.chan c).lockOwner ≠ none) :
    dmaComplete c s = (s.setChan c (callbackChan c d.kind (s.env c) (s.chan c))).setEnv c
      (callbackEnv d.kind (s.env c)) := by
  cases hk : d.kind <;> simp only [dmaComplete, dmaCompleteBody, hd, ha, hp, callback, settleRaces, hk] <;> simp
  · rw [busDeselect_ok (by simp [hs]) (by simp) (by simpa using hb)]
    simp only [Res.andThen_ok]
    rw [busUnlock_ok (by simp [hl]) (by simp)]
    simp [callbackChan, callbackEnv, Chan.setFlag]
  · rw [busDeselect_ok (by simp [hs]) (by simp) (by simpa using hb)]
    simp only [Res.andThen_ok]
    rw [busUnlock_ok (by simp [hl]) (by simp)]
    simp [callbackChan, callbackEnv, Chan.setFlag]

/-- A card interrupt with a registered handler on a free channel is one CLEAR_STATUS span. -/
theorem cardInterrupt_free {c : Channel} {sp : Speed} {s : State} (ha : s.aborted = false) (hb : NoBusError c s)
    (hi : (s.env c).card.intEnable = true) (hh : (s.chan c).intHandler = some (.clearStatus sp))
    (hl : (s.chan c).lockOwner = none) (hs : (s.chan c).sel = none) (hf : (s.chan c).fsm = .idle)
    (hd : (s.chan c).dma = none) :
    cardInterrupt c s = (s.setChan c { s.chan c with trace := (s.chan c).trace ++
      [.lock .card, .select .card sp, .immWrite cmdClearStatus, .deselect, .unlock] }).setEnv c
        (((s.env c).newSpan).receive c cmdClearStatus).newSpan := by
  simp only [cardInterrupt, cardInterruptBody, hi, ha, hh, clearStatusHandler, busLock_free hl]
  rw [busSelect_ok (by simp) (by simp [hs]) (by simpa using hb)]
  simp only [Res.andThen_ok, wireClearStatus]
  rw [busImmWrite_ok (by simp) (by simp [hd]) (by simpa using hb)]
  simp only [Res.andThen_ok, closeSpan]
  rw [busDeselect_ok (by simp) (by simp [hd]) (by simpa using hb)]
  simp only [Res.andThen_ok]
  rw [busUnlock_ok (by simp) (by simp)]
  simp [← hl, ← hs, ← hf]

/-- A latency of the table fits the extra space (R5). -/
theorem latency_le_readExtra (i : BitVec 3) : (Config.latTable i).toNat ≤ Config.readExtra := by
  have h : (Config.latTable i).toNat ≤ Config.maxLatency := by
    have hi : i = 0#3 ∨ i = 1#3 ∨ i = 2#3 ∨ i = 3#3 ∨ i = 4#3 ∨ i = 5#3 ∨ i = 6#3 ∨ i = 7#3 := by
      revert i
      decide
    simp only [Config.maxLatency, List.foldl]
    rcases hi with rfl | rfl | rfl | rfl | rfl | rfl | rfl | rfl <;> omega
  exact Nat.le_trans h (Nat.le_add_right _ _)

end Sys2Proof.Machine
end

