-- ==== Sys2Proof/Laws/PerInstr.lean ====
section
/-! SUPPORT. Statements made per operation, one lemma per constructor of `Instr`. -/

namespace Sys2Proof.Laws.FirstByte

open Sys2Proof

/-- The words of an operation begin with its row's first byte, the opcode of R93 or the select code of R104, and in its
own decode space the decoder finds the row again from that byte alone (R100, R104). -/
def Statement (i : Instr) : Prop := (encode i).head? = some i.row.code ∧ rowOf i.space i.row.code = some i.row

theorem identify (c : Channel) : Statement (.identify c) := ⟨rfl, rfl⟩
theorem status (c : Channel) : Statement (.status c) := ⟨rfl, rfl⟩
theorem clearStatusCmd (c : Channel) : Statement (.clearStatusCmd c) := ⟨rfl, rfl⟩
theorem enableInt (c : Channel) (en : Bool) : Statement (.enableInt c en) := ⟨rfl, rfl⟩
theorem pageProgram (c : Channel) (o : Offset23) : Statement (.pageProgram c o) := ⟨rfl, rfl⟩
theorem pageRead (c : Channel) (o : Offset23) (dummies : Nat) : Statement (.pageRead c o dummies) := ⟨rfl, rfl⟩
theorem getId (c : Channel) (speed : Speed) : Statement (.getId c speed) := ⟨rfl, rfl⟩
theorem readStatus (c : Channel) (speed : Speed) : Statement (.readStatus c speed) := ⟨rfl, rfl⟩
theorem clearStatus (c : Channel) (speed : Speed) : Statement (.clearStatus c speed) := ⟨rfl, rfl⟩
theorem enableInterrupt (c : Channel) (speed : Speed) (en : Bool) : Statement (.enableInterrupt c speed en) :=
  ⟨rfl, rfl⟩
theorem beginProgram (c : Channel) (speed : Speed) (o : Word) : Statement (.beginProgram c speed o) :=
  ⟨rfl, rfl⟩
theorem beginRead (c : Channel) (speed : Speed) (o : Word) (latencyCycles : Nat) :
    Statement (.beginRead c speed o latencyCycles) := ⟨rfl, rfl⟩
theorem join (c : Channel) : Statement (.join c) := ⟨rfl, rfl⟩
theorem waitReady (c : Channel) (speed : Speed) : Statement (.waitReady c speed) := ⟨rfl, rfl⟩
theorem decodeGeometry (c : Channel) (id : IdWord) : Statement (.decodeGeometry c id) := ⟨rfl, rfl⟩
theorem lock (c : Channel) (slot : DeviceSlot) : Statement (.lock c slot) := ⟨rfl, rfl⟩
theorem unlock (c : Channel) : Statement (.unlock c) := ⟨rfl, rfl⟩
theorem select (c : Channel) (slot : DeviceSlot) (speed : Speed) : Statement (.select c slot speed) :=
  ⟨rfl, rfl⟩
theorem deselect (c : Channel) : Statement (.deselect c) := ⟨rfl, rfl⟩
theorem immWrite (c : Channel) (bytes : List Byte) : Statement (.immWrite c bytes) := ⟨rfl, rfl⟩
theorem immRead (c : Channel) (n : Nat) : Statement (.immRead c n) := ⟨rfl, rfl⟩
theorem dmaTransfer (c : Channel) (kind : DmaKind) (dir : DmaDir) (len : Nat) :
    Statement (.dmaTransfer c kind dir len) := ⟨rfl, rfl⟩
theorem registerIntHandler (c : Channel) (h : Handler) : Statement (.registerIntHandler c h) :=
  ⟨by cases h; rfl, rfl⟩
theorem isAttached (c : Channel) : Statement (.isAttached c) := ⟨rfl, rfl⟩

end Sys2Proof.Laws.FirstByte
end

