-- ==== Sys2Proof/Tests/Slice0.lean ====
section
/-! SUPPORT. The author's own tests. Expected values are the vectors of 95_test_vectors.md (named in each comment) or
worked by hand from the rule a test names; `witness_X` shows a state and operands that meet the hypotheses of the
statement `X` of Certificates/Slice0/Obligations.lean. -/

namespace Sys2Proof.Tests

open Sys2Proof Sys2Proof.Machine Sys2Proof.Safety

/-! ### Small states -/

/-- A speed. -/
def sp0 : Speed := ⟨0⟩

/-- Channel 0 with its lock held by the card's slot (after V-B1). -/
def locked : State := { State.reset with ch0 := { Chan.reset with lockOwner := some .card } }

/-- Channel 0 with a span open (after V-B4). -/
def spanned : State :=
  { State.reset with ch0 := { Chan.reset with lockOwner := some .card, sel := some ⟨.card, sp0⟩, fsm := .commandSent } }

/-- Channel 0 with the five bytes of a page command out and no DMA issued. -/
def awaiting : State := { spanned with ch0 := { spanned.ch0 with fsm := .awaitingDMA } }

/-- Channel 0 with a program DMA in flight (after V-S3, or after V-S8 when performed). -/
def programming (performed : Bool) : State :=
  { awaiting with ch0 := { awaiting.ch0 with programDone := false, dma := some ⟨.program, .toCard, 128, performed⟩ } }

/-- Channel 0 with a read DMA in flight. -/
def reading (performed : Bool) : State :=
  { awaiting with ch0 := { awaiting.ch0 with readDone := false, dma := some ⟨.read, .fromCard, 512, performed⟩ } }

/-- Reset with the reference card of R76 on channel 0, its word and its script. -/
def withCard (id : IdWord) (script : List Byte) : State :=
  { State.reset with env0 := { Env.reset with card := { Card.reset with
      model := .reference, cardId := id, statusScript := ⟨script, .ready⟩ } } }

/-- Reset with a handler on channel 0 and the card's interrupt enabled (the start of V-E7). -/
def interruptible : State :=
  { State.reset with
    ch0 := { Chan.reset with intHandler := some (.clearStatus sp0) }
    env0 := { Env.reset with card := { Card.reset with intEnable := true } } }

/-- Reset with no card on channel 0. -/
def emptySlot : State := { State.reset with env0 := { Env.reset with attached := false } }

/-- A state in which the next primitive of channel 0 that can fail reports a bus error. -/
def failing (s : State) : State := s.setEnv .ch0 { s.env .ch0 with busErrorIn := some 0 }

/-- A state whose platform places both buffers of channel 0 against its own `DMA_ALIGN`. -/
def misplaced (s : State) : State := s.setEnv .ch0 { s.env .ch0 with buffers := ⟨4, 2, 2⟩ }

/-- The state with one call of a host operation as the main flow's program. -/
def calling (words : List Byte) (s : State) : State := { s with program := [.call .hostOp words] }

/-! ### WellFormed: an ill-formed term for each check -/

theorem test_wf_immRead_zero : (Instr.immRead .ch0 0).wf = false := by decide
theorem test_wf_dma_direction : (Instr.dmaTransfer .ch0 .program .fromCard 128).wf = false := by decide
theorem test_wf_dma_length : (Instr.dmaTransfer .ch0 .read .fromCard 128).wf = false := by decide
theorem test_wf_lock_slot : (Instr.lock .ch0 (.other Config.otherSlots)).wf = false := by
  simp [Instr.wf, DeviceSlot.wf]
theorem test_wf_select_slot : (Instr.select .ch0 (.other Config.otherSlots) sp0).wf = false := by
  simp [Instr.wf, DeviceSlot.wf]

/-- A speed above the last member of the enumeration is refused by every operation that takes one. -/
theorem test_wf_speed (sp : Speed) (h : Config.lastSpeed < sp.index) :
    (Instr.getId .ch0 sp).wf = false ∧ (Instr.readStatus .ch0 sp).wf = false ∧ (Instr.clearStatus .ch0 sp).wf = false ∧
    (Instr.enableInterrupt .ch0 sp true).wf = false ∧ (Instr.beginProgram .ch0 sp 0).wf = false ∧
    (Instr.beginRead .ch0 sp 0 0).wf = false ∧ (Instr.waitReady .ch0 sp).wf = false ∧
    (Instr.select .ch0 .card sp).wf = false ∧ (Instr.registerIntHandler .ch0 (.clearStatus sp)).wf = false := by
  simp [Instr.wf, Handler.wf, Speed.wf, h]

theorem test_wf_accepts : (Instr.immRead .ch0 65537).wf = true ∧ (Instr.lock .ch0 .card).wf = true ∧
    (Instr.dmaTransfer .ch0 .read .fromCard 512).wf = true ∧ (Instr.getId .ch0 ⟨0⟩).wf = true := by
  refine ⟨by decide, rfl, by decide, ?_⟩
  simp [Instr.wf, Speed.wf]

/-! ### Decoding, one word written out for each constructor -/

-- V-C1 to V-C5: the pad byte is ignored on receipt (R94)
theorem test_decode_identify : decodeCall .wire [0x85, 0x00, 1] = .ok (.identify .ch1) := by rfl
theorem test_decode_identify_pad : decodeCall .wire [0x85, 0xFF, 0] = .ok (.identify .ch0) := by rfl
theorem test_decode_status : decodeCall .wire [0x83, 0x00, 0] = .ok (.status .ch0) := by rfl
theorem test_decode_clearStatusCmd : decodeCall .wire [0x89, 1] = .ok (.clearStatusCmd .ch1) := by rfl
theorem test_decode_enableInt : decodeCall .wire [0x81, 0x01, 0] = .ok (.enableInt .ch0 true) := by rfl
theorem test_decode_enableInt_false : decodeCall .wire [0x81, 0x00, 0] = .ok (.enableInt .ch0 false) := by rfl
-- V-C8, V-C9: the address field is contiguous across its four bytes
theorem test_decode_pageProgram :
    decodeCall .wire [0xF2, 0x09, 0x1A, 0x00, 0x56, 0] = .ok (.pageProgram .ch0 0x123456) := by rfl
theorem test_decode_pageRead :
    decodeCall .wire [0x52, 0x3F, 0xFF, 0x03, 0x7F, 1, 0x84, 1] = .ok (.pageRead .ch1 0x7FFFFF 260) := by rfl
-- R104's select codes with the model's operand bytes (log 3)
theorem test_decode_getId : decodeCall .hostOp [0x00, 1, 2] = .ok (.getId .ch1 ⟨2⟩) := by rfl
theorem test_decode_readStatus : decodeCall .hostOp [0x01, 0, 3] = .ok (.readStatus .ch0 ⟨3⟩) := by rfl
theorem test_decode_clearStatus : decodeCall .hostOp [0x02, 0, 3] = .ok (.clearStatus .ch0 ⟨3⟩) := by rfl
theorem test_decode_enableInterrupt :
    decodeCall .hostOp [0x03, 1, 0, 1] = .ok (.enableInterrupt .ch1 ⟨0⟩ true) := by rfl
theorem test_decode_beginProgram :
    decodeCall .hostOp [0x04, 0, 1, 0x00, 0x00, 0xA0, 0x00] = .ok (.beginProgram .ch0 ⟨1⟩ 0xA000) := by rfl
theorem test_decode_beginRead :
    decodeCall .hostOp [0x05, 0, 1, 0x00, 0x00, 0xA0, 0x00, 4] = .ok (.beginRead .ch0 ⟨1⟩ 0xA000 4) := by rfl
theorem test_decode_join : decodeCall .hostOp [0x06, 1] = .ok (.join .ch1) := by rfl
theorem test_decode_waitReady : decodeCall .hostOp [0x07, 1, 0] = .ok (.waitReady .ch1 ⟨0⟩) := by rfl
theorem test_decode_decodeGeometry :
    decodeCall .hostOp [0x08, 0, 0xC2, 0x21] = .ok (.decodeGeometry .ch0 0xC221) := by rfl
theorem test_decode_lock : decodeCall .busOp [0x10, 0, 0] = .ok (.lock .ch0 .card) := by rfl
theorem test_decode_unlock : decodeCall .busOp [0x11, 1] = .ok (.unlock .ch1) := by rfl
theorem test_decode_select : decodeCall .busOp [0x12, 0, 2, 5] = .ok (.select .ch0 (.other 1) ⟨5⟩) := by rfl
theorem test_decode_deselect : decodeCall .busOp [0x13, 0] = .ok (.deselect .ch0) := by rfl
theorem test_decode_immWrite : decodeCall .busOp [0x14, 0, 2, 0x83, 0x00] = .ok (.immWrite .ch0 [0x83, 0x00]) := by rfl
theorem test_decode_immRead : decodeCall .busOp [0x15, 0, 1] = .ok (.immRead .ch0 2) := by rfl
theorem test_decode_dmaTransfer :
    decodeCall .busOp [0x16, 0, 1, 1, 1] = .ok (.dmaTransfer .ch0 .read .fromCard 512) := by rfl
theorem test_decode_registerIntHandler :
    decodeCall .busOp [0x17, 1, 4] = .ok (.registerIntHandler .ch1 (.clearStatus ⟨4⟩)) := by rfl
theorem test_decode_isAttached : decodeCall .busOp [0x18, 1] = .ok (.isAttached .ch1) := by rfl

-- The table's bits, numbered from the most significant byte (R92, V-C4, V-C8)
theorem test_table_words : decodeTableWord 16 0x8101 = some (.enableInt .ch0 true) ∧
    decodeTableWord 40 0xF2091A0056 = some (.pageProgram .ch0 0x123456) ∧
    decodeTableWord 8 0x18 = some (.isAttached .ch0) := by decide

-- Refusals by name: an unassigned code (R104), a reserved bit (R99), too few bytes, trailing bytes
theorem test_decode_refuses : decodeCall .hostOp [0x09] = .error (.unassigned 0x09) ∧
    decodeCall .wire [0xF2, 0x40, 0, 0, 0, 0] = .error .reservedBits ∧
    decodeCall .wire [0x81, 0x02, 0] = .error .reservedBits ∧ decodeCall .wire [0x52, 0, 0] = .error .truncated ∧
    decodeCall .hostOp [0x06, 0, 1] = .error .trailing ∧ decodeCall .hostOp [0x06, 2] = .error (.badChannel 2) :=
  ⟨rfl, rfl, rfl, rfl, rfl, rfl⟩
-- R104: the kinds are told apart by place, so 0x52 is no select code and 0x12 no opcode
theorem test_decode_spaces : decodeCall .hostOp [0x52, 0, 0, 0, 0, 0, 0] = .error (.unassigned 0x52) ∧
    decodeCall .wire [0x12, 0, 0, 0] = .error (.unassigned 0x12) ∧
    decodeCall .busOp [0x06, 0] = .error (.unassigned 0x06) := ⟨rfl, rfl, rfl⟩
-- The model's form of a natural number (log 3): 127, 128, 255 and 256
theorem test_numbers : encNat 127 = [0x7F] ∧ encNat 128 = [0x80, 0x00] ∧ encNat 255 = [0xFF, 0x00] ∧
    encNat 256 = [0x80, 0x01] ∧ takeNat [0x80, 0x01, 7] = .ok (256, [7]) := ⟨rfl, rfl, rfl, rfl, rfl⟩
/-! ### The address field and the geometry -/

-- V-A5, V-A6, V-A10, V-A12, V-A14
theorem test_addrEncode : addrEncode 0x0001FF = [0x00, 0x00, 0x03, 0x7F] ∧ addrEncode 0x000200 = [0, 0x01, 0, 0] ∧
    addrEncode 0x7FFFFF = [0x3F, 0xFF, 0x03, 0x7F] ∧ addrEncode 0xABCDEF = [0x15, 0xE6, 0x03, 0x6F] ∧
    addrEncode 0x1000005 = [0, 0, 0, 0x05] := by decide
theorem test_addrDecode : addrDecode 0x15 0xE6 0x03 0x6F = 0x2BCDEF ∧ addrDecode 0x01 0 0 0 = 0x020000 := by decide

-- V-G6, V-G18, V-G21: the rotations
theorem test_rotl32 : rotl32 0x0040 26 = 0x00000001 ∧ rotl32 0xC221 26 = 0x84000308 ∧
    rotl32 0xC221 23 = 0x10800061 ∧ rotl32 0x1580 23 = 0xC000000A := by decide
-- V-G20: all three fields, and the numerator 1179648 over the suggested entry 0x4000
theorem test_geometry_fields : geoSize 0x0A48 = 9 ∧ latIdx 0x0A48 = 2 ∧ secIdx 0x0A48 = 1 ∧
    blockCount 9 0x4000 = 72 := by decide
-- V-G22: the division rounds toward zero. V-G9: bits 1 and 0 are ignored
theorem test_blockCount_rounds : blockCount 31 0x40000 = 15 ∧ geoSize 0x00FF = 31 := by decide
-- V-G20 and V-G26 on suggested entries: the whole record, and the guard on a zero entry below 6
theorem test_geoDecodeFrom : geoDecodeFrom (fun _ => 16) (fun _ => 0x4000) 0x0A48 = .valid ⟨9, 16, 0x4000, 72⟩ ∧
    geoDecodeFrom (fun _ => 16) (fun _ => 0) 0x0A48 = .undefined := by decide
-- V-G14, V-G17: slots 6 and 7
theorem test_undefined_geometry : geoDecode 0x3000 = .undefined ∧ geoDecode 0xFFFF = .undefined := by decide

/-! ### One step of each operation -/

/-- The state an operation ends in. -/
def after (i : Instr) (s : State) : State :=
  match exec i s with
  | .next t => t
  | _ => s

-- V-H1: first byte received is the high byte
theorem test_getId : (after (.getId .ch0 sp0) (withCard 0xC221 [])).ret = .returned (.id 0xC221) ∧
    (after (.getId .ch0 sp0) (withCard 0xC221 [])).ch0.trace = [.lock .card, .select .card sp0, .immWrite [0x85, 0x00],
      .immRead [0xC2, 0x21], .deselect, .unlock] := by decide
-- V-H4
theorem test_readStatus : (after (.readStatus .ch0 sp0) (withCard 0 [0x41])).ret = .returned (.status 0x41) ∧
    (after (.readStatus .ch0 sp0) (withCard 0 [0x41])).env0.card.statusScript = ⟨[], .ready⟩ := by decide
-- V-H5
theorem test_clearStatus : (after (.clearStatus .ch0 sp0) State.reset).ch0.trace =
    [.lock .card, .select .card sp0, .immWrite [0x89], .deselect, .unlock] := by decide
-- V-H6, R77
theorem test_enableInterrupt : (after (.enableInterrupt .ch0 sp0 true) (withCard 0 [])).ch0.trace =
      [.lock .card, .select .card sp0, .immWrite [0x81, 0x01], .deselect, .unlock] ∧
    (after (.enableInterrupt .ch0 sp0 true) (withCard 0 [])).env0.card.intEnable = true := by decide
-- V-S6: busy while a DMA is in flight
theorem test_getId_busy : (after (.getId .ch0 sp0) (programming false)).ret = .raised .errBusy (.channel .ch0) ∧
    (after (.getId .ch0 sp0) (programming false)).ch0 = (programming false).ch0 := by decide
-- V-E1
theorem test_readStatus_empty :
    (after (.readStatus .ch0 sp0) emptySlot).ret = .raised .errNotAttached (.channel .ch0) := by decide

-- V-C1 and R62 on the wire
theorem test_identify : (after (.identify .ch0) { spanned with env0 := (withCard 0x21C2 []).env0 }).ret =
    .returned (.id 0x21C2) := by decide
theorem test_status : (after (.status .ch0) { spanned with env0 := (withCard 0 [0x80]).env0 }).ret =
    .returned (.status 0x80) := by decide
theorem test_clearStatusCmd : (after (.clearStatusCmd .ch0) spanned).ch0.trace = [.immWrite [0x89]] := by decide
theorem test_enableInt : (after (.enableInt .ch0 true) spanned).env0.card.intEnable = true := by decide
-- V-C6
theorem test_pageProgram : (after (.pageProgram .ch0 0xA000) spanned).ch0.trace =
    [.immWrite [0xF2, 0x00, 0x50, 0x00, 0x00], .dmaIssue .program .toCard 128] := by decide
-- V-C10: offset 0x800000 does not fit 23 bits and its page command is that of offset 0
theorem test_pageRead : (after (.pageRead .ch0 0x000000 0) spanned).ch0.dma = some ⟨.read, .fromCard, 512, false⟩ ∧
    (after (.pageRead .ch0 0x000000 0) spanned).ch0.fsm = .awaitingDMA := by
  have h : dummiesFit 0 = true := by simp [dummiesFit]
  simp only [after, exec, execPageRead, h, Bool.true_and]
  decide
theorem test_identify_outside_a_span :
    (after (.identify .ch0) State.reset).ret = .raised .errProtocol .nothing := by decide

-- V-S3
theorem test_beginProgram : (after (.beginProgram .ch0 sp0 0xA000) State.reset).ch0 = { Chan.reset with
    programDone := false, lockOwner := some .card, sel := some ⟨.card, sp0⟩, fsm := .awaitingDMA,
    dma := some ⟨.program, .toCard, 128, false⟩,
    trace := [.lock .card, .select .card sp0, .immWrite [0xF2, 0x00, 0x50, 0x00, 0x00],
      .dmaIssue .program .toCard 128] } := by decide
-- V-E5: the empty channel outranks the flag
theorem test_beginProgram_empty :
    (after (.beginProgram .ch0 sp0 0) { programming false with env0 := emptySlot.env0 }).ret =
      .raised .errNotAttached (.channel .ch0) := by decide
-- V-S12: with no dummy byte the trace is the one below, in the sense of R131
theorem test_beginRead : traceNorm (after (.beginRead .ch0 sp0 0 0) State.reset).ch0.trace =
    [.lock .card, .select .card sp0, .immWrite [0x52, 0, 0, 0, 0], .dmaIssue .read .fromCard 512] := by
  have h : dummiesFit 0 = true := by simp [dummiesFit]
  simp only [after, exec, execBeginRead, h, Bool.true_and]
  decide
-- V-S13, V-E3: the count outranks the empty channel
theorem test_beginRead_count (s : State) : (after (.beginRead .ch0 sp0 0 (Config.readExtra + 1)) s) =
    s.takeException .errProtocol .nothing := by
  have h : dummiesFit (Config.readExtra + 1) = false := by simp [dummiesFit]
  simp [after, exec, execBeginRead, h, finish, raiseEnd, ifFit]

/-- A DMA that has performed, its span ended by a raw DESELECT and UNLOCK: a state that breaks R50 (log 45). -/
def orphaned : State :=
  { programming true with ch0 := { (programming true).ch0 with
      programDone := true, lockOwner := none, sel := none, fsm := .idle } }
-- R215: a request that is refused half way leaves the state unchanged, the lock and the flag too
theorem test_refused_half_way : after (.getId .ch0 sp0) orphaned = orphaned.takeException .errProtocol .nothing ∧
    after (.waitReady .ch0 sp0) orphaned = orphaned.takeException .errProtocol .nothing ∧
    after (.beginProgram .ch0 sp0 0) orphaned = orphaned.takeException .errProtocol .nothing := by decide

-- R65 item 1: a buffer that violates DMA_ALIGN is a refusal, and no flag is cleared
theorem test_misplaced_buffer : (after (.beginProgram .ch0 sp0 0) (misplaced State.reset)).ret =
      .raised .errProtocol .nothing ∧
    (after (.beginProgram .ch0 sp0 0) (misplaced State.reset)).ch0 = Chan.reset := by decide

-- V-S1, V-S2
theorem test_join : (after (.join .ch0) State.reset).ret = .returned .unit := by decide
theorem test_join_waits : (after (.join .ch0) (programming true)).ret = .waiting := by decide
-- V-S17, and V-S16's first poll: a byte without the ready bit leaves the operation waiting
theorem test_waitReady : (after (.waitReady .ch0 sp0) (withCard 0 [Config.readyMask])).ret = .returned .unit := by
  have h : statusReady Config.readyMask = true := by
    simp only [statusReady, BitVec.and_self, bne_iff_ne]
    intro h
    have := congrArg (fun x => x.getLsbD Config.readyBit.val) h
    simp [Config.readyMask] at this
  have e : readStatusOnce .ch0 sp0 (withCard 0 [Config.readyMask]) = .ok Config.readyMask
      (match readStatusOnce .ch0 sp0 (withCard 0 [Config.readyMask]) with | .ok _ s => s | .raise _ _ s => s) := rfl
  simp only [after, exec, execWaitReady]
  rw [e]
  simp [h, State.returnValue, State.setRet]
theorem test_waitReady_polls : (after (.waitReady .ch0 sp0) (withCard 0 [0x00, 0x00])).ret = .waiting ∧
    (after (.waitReady .ch0 sp0) (withCard 0 [0x00, 0x00])).env0.card.statusScript = ⟨[0x00], .ready⟩ := by
  have h : statusReady 0x00 = false := by simp [statusReady]
  have e : ∃ s, readStatusOnce .ch0 sp0 (withCard 0 [0x00, 0x00]) = .ok 0x00 s ∧
      s.env0.card.statusScript = ⟨[0x00], .ready⟩ := ⟨_, rfl, rfl⟩
  obtain ⟨s, e, h2⟩ := e
  have e' : after (.waitReady .ch0 sp0) (withCard 0 [0x00, 0x00]) = s.await := by
    simp only [after, exec, execWaitReady]
    rw [e]
    simp only [h]
    rfl
  rw [e']
  exact ⟨rfl, h2⟩
-- V-G27
theorem test_decodeGeometry : (after (.decodeGeometry .ch0 0x3000) State.reset).ret =
      .raised .errUndefinedGeometry (.id 0x3000) ∧
    (after (.decodeGeometry .ch0 0x3000) State.reset).ch0.geom = .undefined ∧
    (after (.decodeGeometry .ch0 0x3000) State.reset).ch1.geom = .underived := by decide

-- V-B1, V-B2
theorem test_lock : (after (.lock .ch0 .card) State.reset).ch0.lockOwner = some .card ∧
    (after (.lock .ch0 .card) State.reset).ret = .returned (.bool true) := by decide
theorem test_lock_held : (after (.lock .ch0 .card) locked).ret = .returned (.bool false) := by decide
-- V-B8, V-B9
theorem test_unlock : (after (.unlock .ch0) locked).ch0 = { Chan.reset with trace := [.unlock] } := by decide
theorem test_unlock_selected : (after (.unlock .ch0) spanned).ret = .raised .errProtocol .nothing := by decide
-- V-B4, V-B5
theorem test_select : (after (.select .ch0 .card sp0) locked).ch0.fsm = .commandSent ∧
    (after (.select .ch0 .card sp0) locked).ch0.trace = [.select .card sp0] := by decide
theorem test_select_unlocked : (after (.select .ch0 .card sp0) State.reset).ret = .raised .errProtocol .nothing := by
  decide
-- V-B7, and R124's corner case
theorem test_deselect : (after (.deselect .ch0) spanned).ch0 = { locked.ch0 with trace := [.deselect] } := by decide
theorem test_deselect_in_flight : (after (.deselect .ch0) (programming false)).ret = .raised .errProtocol .nothing := by
  decide
-- V-B6, V-B14
theorem test_immWrite : (after (.immWrite .ch0 [0x89]) spanned).ch0 =
    { spanned.ch0 with trace := [.immWrite [0x89]] } := by decide
theorem test_immWrite_bus_error : (after (.immWrite .ch0 [0x83, 0x00]) (failing spanned)).ret =
      .raised .fatalBus .nothing ∧
    (after (.immWrite .ch0 [0x83, 0x00]) (failing spanned)).aborted = true ∧
    (after (.immWrite .ch0 [0x83, 0x00]) (failing spanned)).ch0 = spanned.ch0 := by decide
-- R126's example, V-B11
theorem test_immRead : (after (.immRead .ch0 2)
    (after (.immWrite .ch0 [0x85, 0x00]) { spanned with env0 := (withCard 0xC221 []).env0 })).ret =
      .returned (.bytes [0xC2, 0x21]) := by decide
theorem test_immRead_unselected : (after (.immRead .ch0 1) State.reset).ret = .raised .errProtocol .nothing := by decide
-- R127's example, V-B10
theorem test_dmaTransfer : (after (.dmaTransfer .ch0 .program .toCard 128) awaiting).ch0.dma =
    some ⟨.program, .toCard, 128, false⟩ := by decide
theorem test_dmaTransfer_early :
    (after (.dmaTransfer .ch0 .program .toCard 128) spanned).ret = .raised .errProtocol .nothing := by decide
-- V-B12
theorem test_registerIntHandler : (after (.registerIntHandler .ch1 (.clearStatus sp0)) State.reset).ch1 =
    { Chan.reset with intHandler := some (.clearStatus sp0) } := by decide
-- R77: the pad byte starts the answer, so a byte read before it does not shift the word
theorem test_identify_after_early_read : (after (.immRead .ch0 2) (after (.immWrite .ch0 [0x00])
    (after (.immRead .ch0 1) (after (.immWrite .ch0 [0x85]) { spanned with env0 := (withCard 0xC221 []).env0 })))).ret =
      .returned (.bytes [0xC2, 0x21]) := by decide
-- R78: what counts is the dummy bytes written when the block starts reading
theorem test_read_start (k : Card) (h : k.cmd = [0x52, 0, 0, 0, 0]) (hr : k.readAt = some 5) (hl : k.latency ≠ 0) :
    k.refAnswer .ch0 1 = none := by
  simp [Card.refAnswer, h, Card.readStart, hr, hl]
-- R77: a first byte that is no opcode leaves a draw for whatever the card held
theorem test_stray_span : (after (.immWrite .ch0 [0x77]) spanned).env0.card.content ≠ spanned.env0.card.content ∧
    (after (.immWrite .ch0 [0x89]) spanned).env0.card.content = spanned.env0.card.content := by decide
-- R76, V-S18: a script that is a value for ever is not used up
theorem test_script_cycle : (⟨[], .cycle 0x00 []⟩ : StatusScript).next .ch0 = 0x00 ∧
    (⟨[], .cycle 0x00 []⟩ : StatusScript).rest = ⟨[], .cycle 0x00 []⟩ := by decide
-- V-B13
theorem test_isAttached : (after (.isAttached .ch0) emptySlot).ret = .returned (.bool false) ∧
    (after (.isAttached .ch1) emptySlot).ret = .returned (.bool true) := by decide

/-! ### The agents -/

-- V-S8: the first and the last byte of the ramp, and the mark
theorem test_dmaPerform : (dmaPerform .ch0 (programming false)).ch0 =
    { (programming true).ch0 with trace := [.dmaData .toCard ((List.range 128).map (BitVec.ofNat 8))] } := by decide
-- V-S9
theorem test_dmaComplete : (dmaComplete .ch0 (programming true)).ch0 =
    { Chan.reset with trace := [.dmaComplete .program, .deselect, .unlock] } := by decide
-- V-E7, V-E8
theorem test_cardInterrupt : (cardInterrupt .ch0 interruptible).ch0 = { interruptible.ch0 with
    trace := [.lock .card, .select .card sp0, .immWrite [0x89], .deselect, .unlock] } := by decide
theorem test_cardInterrupt_busy :
    cardInterrupt .ch0 { interruptible with ch0 := { interruptible.ch0 with lockOwner := some .card } } =
      { interruptible with ch0 := { interruptible.ch0 with lockOwner := some .card } } := by decide
-- R70: the byte stored to is a draw, its neighbour is the ramp's
theorem test_raced_store : (programData .ch0 (storeWbuf .ch0 5 0xEE (programming false))).getD 4 0 = 4 := by decide
-- R40: an index the buffer does not have
theorem test_store_outside : runAccess (.storeWbuf .ch0 128 0) State.reset = .fault (.noSuchAddress .wbuf 128) := by rfl

/-! ### Steps -/

-- R120: the main flow may not call a raw primitive; the bench may (log 6), and a placed table word runs
theorem test_step_raw : step { State.reset with program := [.call .busOp [0x10, 0, 0]] } = .refused .outOfContext ∧
    (∃ t, step (State.reset.withFetchWord 8 0x10) = .next t ∧ t.ret = .returned (.bool true)) ∧
    ∃ t, step (State.reset.withFetchWord 16 0x8500) = .next t ∧ t.ret = .raised .errProtocol .nothing :=
  ⟨rfl, ⟨_, rfl, by decide⟩, _, rfl, by decide⟩
-- R120: a completion callback outside a primitive's precondition is no silent success (log 46)
theorem test_step_event_body : step { programming true with
    ch0 := { (programming true).ch0 with sel := none, fsm := .idle }, agenda := [.dmaComplete .ch0] } =
      .refused .eventBody := rfl
-- A placed table word is what the next step runs
theorem test_step_join : ∃ t, step (State.reset.withFetchWord 8 0x06) = .next t ∧ t.ret = .returned .unit ∧
    t.program = [] := ⟨_, rfl, by decide⟩
-- V-S2: a call that waits stays the main flow's next item
theorem test_step_join_waits : ∃ t, step (calling [0x06, 0] (programming false)) = .next t ∧ t.ret = .waiting ∧
    t.program = [.call .hostOp [0x06, 0]] := ⟨_, rfl, by decide⟩
-- A main flow with nothing left stays as it is
theorem test_step_idle : step State.reset = .next State.reset := rfl
-- R101: a call that is no operation is refused
theorem test_step_refuses : step (calling [0x77] State.reset) = .refused (.undecodable (.unassigned 0x77)) := rfl

/-! ### Witnesses: the hypotheses of each statement are met together -/

theorem witness_AddressFieldAndItsInverse : (0x7FFFFF : Word).toNat < 2 ^ 23 ∧ (0x3F : Byte) &&& 0xC0 = 0 ∧
    (0x03 : Byte) &&& 0xFC = 0 ∧ (0x7F : Byte) &&& 0x80 = 0 := by decide
theorem witness_DecodeInvertsEncode : (Instr.immRead .ch0 65537).wf = true ∧
    (Instr.pageRead .ch1 0x7FFFFF 4294967296).wf = true := by decide
theorem witness_EncodeInvertsDecode : decode .wire [0x85, 0xAA, 1, 7] = .ok (.identify .ch1, [7]) ∧
    decode .wire [0x83, 0x00, 0] = .ok (.status .ch0, []) ∧
    decode .busOp [0x13, 1, 9] = .ok (.deselect .ch1, [9]) := ⟨rfl, rfl, rfl⟩
-- Both sides of the statement at the edges of each space
theorem witness_OtherFirstBytesAreRefused : decode .hostOp [0x09] = .error (.unassigned 0x09) ∧
    decode .busOp [0x0F] = .error (.unassigned 0x0F) ∧ decode .busOp [0x19] = .error (.unassigned 0x19) ∧
    decode .wire [0x00] = .error (.unassigned 0x00) ∧ decode .hostOp [0x08, 0, 0, 0] = .ok (.decodeGeometry .ch0 0, []) ∧
    decode .busOp [0x18, 0] = .ok (.isAttached .ch0, []) := ⟨rfl, rfl, rfl, rfl, rfl, rfl⟩
theorem witness_ReservedBitsSentAsZeroAndRefused :
    ¬ ((0x40 : Byte) &&& 0xC0 = 0 ∧ (0 : Byte) &&& 0xFC = 0 ∧ (0 : Byte) &&& 0x80 = 0) ∧ (0x02 : Byte) &&& 0xFE ≠ 0 := by
  decide
theorem witness_UndefinedGeometryExactly : (0x3000 : IdWord) &&& 0x3000 = 0x3000 ∧
    (fun _ => 0x2000 : BitVec 3 → Word) 0 ≠ 0 := by decide
theorem witness_GeometryFieldsAndBlockCount :
    (fun _ => 0x2000 : BitVec 3 → Word) ((0x1580 : IdWord).extractLsb' 11 3) ≠ 0 := by decide
/-- Reset meets the premise of every statement that asks only for a clear fatal mark. -/
theorem witness_DecodeGeometryStoresAndReports : State.reset.aborted = false := rfl
theorem witness_LockIsATryLock : State.reset.aborted = false ∧ (State.reset.chan .ch0).lockOwner = none ∧
    locked.aborted = false ∧ (locked.chan .ch0).lockOwner ≠ none := by decide
theorem witness_UnlockFreesTheLock : locked.aborted = false ∧ (locked.chan .ch0).lockOwner ≠ none ∧
    (locked.chan .ch0).sel = none := by decide
theorem witness_SelectOpensATransaction : locked.aborted = false ∧ NoBusError .ch0 locked ∧
    (locked.chan .ch0).lockOwner = some .card ∧ (locked.chan .ch0).sel = none := by decide
theorem witness_DeselectEndsTheTransaction : spanned.aborted = false ∧ NoBusError .ch0 spanned ∧
    (spanned.chan .ch0).sel ≠ none ∧ (spanned.chan .ch0).dma = none := by decide
theorem witness_DeselectEndsTheTransaction_performed : NoBusError .ch0 (programming true) ∧
    ((programming true).chan .ch0).sel ≠ none ∧
    ∃ d, ((programming true).chan .ch0).dma = some d ∧ d.performed = true := ⟨by decide, by decide, _, rfl, rfl⟩
theorem witness_ImmWriteSendsItsBytes : SpanOpen .ch0 spanned ∧ NoBusError .ch0 spanned := by decide
theorem witness_ImmReadReturnsTheCardsBytes : SpanOpen .ch0 spanned ∧ NoBusError .ch0 spanned ∧ 1 ≤ 1 ∧
    (spanned.env .ch0).card.strays = false ∧ (spanned.env .ch0).card.model = .unconstrained := by decide
theorem witness_DmaTransferIsIssued : SpanOpen .ch0 awaiting ∧ NoBusError .ch0 awaiting ∧
    (awaiting.chan .ch0).fsm = .awaitingDMA ∧ (awaiting.env .ch0).aligned .program = true ∧
    (awaiting.env .ch0).aligned .read = true := by decide
theorem witness_RegisterInstallsTheHandler : State.reset.aborted = false := rfl
-- Each clause: reset has no lock and no selection, `programming false` a DMA in flight and not performed,
-- `spanned` is not awaiting a DMA
theorem witness_PreconditionsAreRefused : State.reset.aborted = false ∧
    ¬ ((State.reset.chan .ch0).lockOwner ≠ none ∧ (State.reset.chan .ch0).sel = none) ∧
    ¬ ((State.reset.chan .ch0).lockOwner = some .card ∧ (State.reset.chan .ch0).sel = none) ∧
    (State.reset.chan .ch0).sel = none ∧ (spanned.chan .ch0).fsm ≠ .awaitingDMA ∧ spanned.aborted = false ∧
    (programming false).aborted = false ∧ ((programming false).chan .ch0).dma ≠ none ∧
    ((programming false).chan .ch0).dma.any (fun d => !d.performed) = true ∧
    (misplaced spanned).aborted = false ∧ ((misplaced spanned).env .ch0).aligned .program = false ∧
    ((misplaced spanned).env .ch0).aligned .read = false := by decide
theorem witness_BusErrorIsFatal :
    ((failing locked).aborted = false ∧ ((failing locked).env .ch0).busErrorIn = some 0 ∧
      ((failing locked).chan .ch0).lockOwner = some .card ∧ ((failing locked).chan .ch0).sel = none) ∧
    (((failing awaiting).env .ch0).busErrorIn = some 0 ∧ ((failing awaiting).chan .ch0).sel ≠ none ∧
      ((failing awaiting).chan .ch0).dma = none ∧ ((failing awaiting).chan .ch0).fsm = .awaitingDMA ∧
      ((failing awaiting).env .ch0).aligned .read = true) ∧
    (((failing (programming false)).env .ch0).busErrorIn = some 0 ∧
      ((failing (programming false)).chan .ch0).dma = some ⟨.program, .toCard, 128, false⟩) ∧
    (((failing State.reset).env .ch0).busErrorIn = some 0 ∧ ((failing State.reset).env .ch0).attached = true ∧
      ((failing State.reset).chan .ch0).lockOwner = none ∧ ((failing State.reset).chan .ch0).sel = none ∧
      ((failing State.reset).chan .ch0).programDone = true ∧ ((failing State.reset).chan .ch0).readDone = true ∧
      ((failing State.reset).env .ch0).aligned .program = true) := by decide
theorem witness_BusErrorIsFatal_bodies :
    ((failing (reading true)).aborted = false ∧
      ((failing (reading true)).chan .ch0).dma = some ⟨.read, .fromCard, 512, true⟩ ∧
      ((failing (reading true)).chan .ch0).sel ≠ none ∧ ((failing (reading true)).chan .ch0).wbufRaced = [] ∧
      ((failing (reading true)).chan .ch0).rbufRaced = []) ∧
    ((failing interruptible).aborted = false ∧ ((failing interruptible).env .ch0).busErrorIn = some 0 ∧
      ((failing interruptible).env .ch0).card.intEnable = true ∧
      ((failing interruptible).chan .ch0).intHandler = some (.clearStatus sp0) ∧
      ((failing interruptible).chan .ch0).lockOwner = none ∧ ((failing interruptible).chan .ch0).sel = none) ∧
    ChannelFree .ch0 (armBusError .ch0 1 State.reset) ∧
    ((armBusError .ch0 1 State.reset).env .ch0).busErrorIn = some 1 := by decide
-- The second, third and fourth primitive of a begin operation
theorem witness_BusErrorIsFatal_begins (k : Nat) : ChannelFree .ch0 (armBusError .ch0 k State.reset) ∧
    ((armBusError .ch0 k State.reset).env .ch0).busErrorIn = some k ∧ 0 ≤ Config.readExtra ∧
    ((armBusError .ch0 k State.reset).env .ch0).aligned .program = true ∧
    ((armBusError .ch0 k State.reset).env .ch0).aligned .read = true ∧
    ((armBusError .ch0 k State.reset).chan .ch0).programDone = true ∧
    ((armBusError .ch0 k State.reset).chan .ch0).readDone = true :=
  ⟨⟨rfl, rfl, rfl, rfl, rfl, rfl⟩, rfl, Nat.zero_le _, rfl, rfl, rfl, rfl⟩
theorem witness_SplittingAnImmediateWriteIsNotObservable : SpanOpen .ch0 spanned ∧ NoBusError .ch0 spanned ∧
    ∃ t u v, exec (.immWrite .ch0 ([0x83] ++ [0x00])) spanned = .next t ∧ exec (.immWrite .ch0 [0x83]) spanned = .next u ∧
      exec (.immWrite .ch0 [0x00]) u = .next v := ⟨by decide, by decide, _, _, _, rfl, rfl, rfl⟩
/-- An open span at its start, for the four statements about a command on the wire. -/
theorem witness_IdentifyAndStatusOnTheWire : SpanOpen .ch0 spanned ∧ NoBusError .ch0 spanned ∧
    (spanned.env .ch0).card.cmd = [] ∧ (spanned.env .ch0).card.received = 0 ∧
    (spanned.env .ch0).card.model = .unconstrained := by decide
theorem witness_IdentifyAndStatusOnTheWire_reference (s : State)
    (h : s = { spanned with env0 := (withCard 0x21C2 []).env0 }) : SpanOpen .ch0 s ∧ NoBusError .ch0 s ∧
    (s.env .ch0).card.cmd = [] ∧ (s.env .ch0).card.received = 0 ∧ (s.env .ch0).card.model = .reference := by
  subst h; decide
theorem witness_ClearStatusAndEnableIntOnTheWire : SpanOpen .ch0 spanned ∧ NoBusError .ch0 spanned ∧
    (spanned.env .ch0).card.cmd = [] ∧ (spanned.env .ch0).card.received = 0 := by decide
theorem witness_PageProgramOnTheWire : SpanOpen .ch0 spanned ∧ NoBusError .ch0 spanned ∧
    (spanned.env .ch0).card.cmd = [] ∧ (spanned.env .ch0).card.received = 0 ∧
    (spanned.env .ch0).aligned .program = true := by decide
theorem witness_PageReadOnTheWire : (SpanOpen .ch0 spanned ∧ NoBusError .ch0 spanned ∧
    (spanned.env .ch0).card.cmd = [] ∧ (spanned.env .ch0).card.received = 0 ∧
    (spanned.env .ch0).aligned .read = true) ∧ Config.readExtra ≤ Config.readExtra ∧
    Config.readExtra < Config.readExtra + 1 := ⟨by decide, Nat.le_refl _, Nat.lt_succ_self _⟩
/-- A free channel with no bus error: reset, or reset with a reference card. -/
theorem witness_GetIdReturnsTheWord : ChannelFree .ch0 (withCard 0xC221 []) ∧ NoBusError .ch0 (withCard 0xC221 []) ∧
    ((withCard 0xC221 []).env .ch0).card.model = .reference ∧ ChannelFree .ch0 State.reset ∧
    NoBusError .ch0 State.reset ∧ (State.reset.env .ch0).card.model = .unconstrained := by decide
theorem witness_ReadStatusReturnsTheByte : ChannelFree .ch0 State.reset ∧ NoBusError .ch0 State.reset ∧
    (State.reset.env .ch0).card.model = .unconstrained ∧ ChannelFree .ch0 (withCard 0 [0x41]) ∧
    NoBusError .ch0 (withCard 0 [0x41]) ∧ ((withCard 0 [0x41]).env .ch0).card.model = .reference := by decide
theorem witness_ClearStatusAndEnableInterruptSpans :
    ChannelFree .ch1 State.reset ∧ NoBusError .ch1 State.reset := by decide
theorem witness_RejectionsChangeNothing : 0 ≤ Config.readExtra ∧ State.reset.abort.aborted = true ∧
    (emptySlot.aborted = false ∧ (emptySlot.env .ch0).attached = false) ∧
    ((State.reset.env .ch0).aligned .program = true ∧ (State.reset.env .ch0).aligned .read = true) ∧
    (locked.aborted = false ∧ (locked.env .ch0).attached = true ∧ (locked.chan .ch0).lockOwner ≠ none) ∧
    ((programming false).chan .ch0).programDone = false ∧ ((reading false).chan .ch0).readDone = false :=
  ⟨Nat.zero_le _, by decide⟩
theorem witness_BeginProgramIssuesTheDma : ChannelFree .ch0 State.reset ∧ NoBusError .ch0 State.reset ∧
    (State.reset.chan .ch0).programDone = true ∧ (State.reset.env .ch0).aligned .program = true ∧
    ((misplaced State.reset).env .ch0).aligned .program = false := by decide
theorem witness_BeginReadIssuesTheDma : (Config.readExtra < Config.readExtra + 1 ∧
    ((misplaced State.reset).env .ch0).aligned .read = false) ∧ (ChannelFree .ch0 State.reset ∧
    NoBusError .ch0 State.reset ∧ (State.reset.chan .ch0).readDone = true ∧
    (State.reset.env .ch0).aligned .read = true) ∧ Config.readExtra ≤ Config.readExtra :=
  ⟨⟨Nat.lt_succ_self _, by decide⟩, by decide, Nat.le_refl _⟩
theorem witness_JoinWaitsForBothFlags : State.reset.abort.aborted = true ∧ (State.reset.aborted = false ∧
    (State.reset.chan .ch0).programDone = true ∧ (State.reset.chan .ch0).readDone = true) ∧
    ((programming false).aborted = false ∧ ((programming false).chan .ch0).programDone = false) := by decide
theorem witness_JoinHangsUntilCompletion : (calling [0x06, 0] (programming false)).aborted = false ∧
    ((calling [0x06, 0] (programming false)).chan .ch0).bothDone = false ∧
    (calling [0x06, 0] (programming false)).agenda = [] ∧ NextCall (.join .ch0) (calling [0x06, 0] (programming false)) :=
  ⟨rfl, rfl, rfl, .hostOp, [0x06, 0], [], rfl, rfl⟩
theorem witness_WaitReadyPollsOncePerStep : ChannelFree .ch0 State.reset ∧ NoBusError .ch0 State.reset := by decide
theorem witness_WaitReadyReturnsOnAReadyCard : ChannelFree .ch0 (withCard 0 []) ∧ NoBusError .ch0 (withCard 0 []) ∧
    ((withCard 0 []).env .ch0).card.model = .reference ∧
    ((withCard 0 []).env .ch0).card.statusScript.next .ch0 &&& Config.readyMask ≠ 0 := by
  refine ⟨by decide, by decide, rfl, fun h => ?_⟩
  have e : ((withCard 0 []).env .ch0).card.statusScript.next .ch0 = Config.readyMask := rfl
  rw [e, BitVec.and_self] at h
  have := congrArg (fun x => x.getLsbD Config.readyBit.val) h
  simp [Config.readyMask] at this
/-- V-S18's card, never ready: every status it answers is 0x00, the first of them listed. -/
def neverReady : State := calling [0x07, 0, 0] (State.reset.setEnv .ch0 { Env.reset with
  card := { Card.reset with model := .reference, statusScript := ⟨[0x00], .cycle 0x00 [0x00]⟩ } })
theorem witness_WaitReadyReturnsOnAReadyCard_never : ChannelFree .ch0 neverReady ∧ NoBusError .ch0 neverReady ∧
    (neverReady.env .ch0).card.model = .reference ∧
    (∀ n, (StatusScript.rest^[n] (neverReady.env .ch0).card.statusScript).next .ch0 &&& Config.readyMask = 0) ∧
    neverReady.agenda = [] ∧ NextCall (.waitReady .ch0 ⟨0⟩) neverReady := by
  refine ⟨by decide, by decide, rfl, fun n => ?_, rfl, .hostOp, [0x07, 0, 0], [], rfl, rfl⟩
  have h (n : Nat) : StatusScript.rest^[n] ⟨[0x00], .cycle 0x00 [0x00]⟩ = ⟨[0x00], .cycle 0x00 [0x00]⟩ ∨
      StatusScript.rest^[n] ⟨[0x00], .cycle 0x00 [0x00]⟩ = ⟨[], .cycle 0x00 [0x00]⟩ := by
    induction n with
    | zero => exact .inl rfl
    | succ n ih => rw [Function.iterate_succ_apply']; rcases ih with h | h <;> rw [h] <;> simp [StatusScript.rest]
  rcases h n with h | h <;> · rw [show (neverReady.env .ch0).card.statusScript = ⟨[0x00], .cycle 0x00 [0x00]⟩ from rfl, h]
                              simp [StatusScript.next]
theorem witness_DoubleBeginIsRejected : ChannelFree .ch0 State.reset ∧ NoBusError .ch0 State.reset ∧
    (State.reset.chan .ch0).programDone = true ∧ (State.reset.chan .ch0).readDone = true ∧
    (State.reset.env .ch0).aligned .program = true ∧ (State.reset.env .ch0).aligned .read = true := by decide
theorem witness_DmaPerformSendsTheWriteBuffer : (programming false).aborted = false ∧
    NoBusError .ch0 (programming false) ∧ ((programming false).chan .ch0).wbufRaced = [] ∧
    ((programming false).chan .ch0).dma = some ⟨.program, .toCard, 128, false⟩ := by decide
theorem witness_DmaPerformFillsTheReadBuffer : (reading false).aborted = false ∧ NoBusError .ch0 (reading false) ∧
    ((reading false).chan .ch0).dma = some ⟨.read, .fromCard, 512, false⟩ ∧
    ((reading false).env .ch0).card.strays = false ∧
    ((reading false).env .ch0).card.model = .unconstrained := by decide
theorem witness_DmaCompleteReleasesTheChannel : (reading true).aborted = false ∧ NoBusError .ch0 (reading true) ∧
    ((reading true).chan .ch0).dma = some ⟨.read, .fromCard, 512, true⟩ ∧ ((reading true).chan .ch0).sel ≠ none ∧
    ((reading true).chan .ch0).lockOwner ≠ none ∧ ((reading true).chan .ch0).wbufRaced = [] ∧
    ((reading true).chan .ch0).rbufRaced = [] := by decide
theorem witness_DisabledAgentsDoNothing : (State.reset.chan .ch0).dma = none ∧ (State.reset.chan .ch0).intHandler = none ∧
    (∃ d, ((reading true).chan .ch0).dma = some d ∧ d.performed = true) ∧
    ∃ d, ((reading false).chan .ch0).dma = some d ∧ d.performed = false :=
  ⟨rfl, rfl, ⟨_, rfl, rfl⟩, _, rfl, rfl⟩
theorem witness_CardInterruptClearsTheStatus : interruptible.aborted = false ∧ NoBusError .ch0 interruptible ∧
    (interruptible.env .ch0).card.intEnable = true ∧
    (interruptible.chan .ch0).intHandler = some (.clearStatus sp0) ∧ (interruptible.chan .ch0).lockOwner = none ∧
    (interruptible.chan .ch0).sel = none ∧ (interruptible.chan .ch0).fsm = .idle ∧
    (interruptible.chan .ch0).dma = none := by decide
-- V-E10: both channels with a performed DMA
theorem witness_EventBodiesCommute :
    NoBusError .ch0 { programming true with ch1 := (reading true).ch0 } ∧
    NoBusError .ch1 { programming true with ch1 := (reading true).ch0 } ∧
    ((programming true).chan .ch0).lockOwner ≠ none := by decide
theorem witness_EarlyReadsOfTheReadBufferAreDraws : State.reset.aborted = false ∧ 511 < 512 ∧
    ((reading false).chan .ch0).readDone = false ∧ (State.reset.chan .ch0).readDone = true ∧ 127 < 128 := by decide
-- The extra space from 512 on (where READ_EXTRA is not 0) to its last index, and the first index past each buffer
theorem witness_EarlyReadsOfTheReadBufferAreDraws_beyond : (0 < Config.readExtra →
      (512 ≤ 512 ∧ 512 < 512 + Config.readExtra) ∧
      512 ≤ 511 + Config.readExtra ∧ 511 + Config.readExtra < 512 + Config.readExtra) ∧
    512 + Config.readExtra ≤ 512 + Config.readExtra ∧ 128 ≤ 128 := by omega
theorem witness_RacedStoresMakeTheSentByteADraw : (programming false).aborted = false ∧ 127 < 128 ∧
    ((programming false).chan .ch0).programDone = false ∧ NoBusError .ch0 (programming false) ∧
    ((programming false).chan .ch0).dma = some ⟨.program, .toCard, 128, false⟩ := by decide
theorem witness_RacedStoresMakeTheSentByteADraw_ordinary : State.reset.aborted = false ∧ 127 < 128 ∧
    (State.reset.chan .ch0).programDone = true := by decide
theorem witness_RacedStoresMakeTheSentByteADraw_complete :
    ((programming true).chan .ch0).dma = some ⟨.program, .toCard, 128, true⟩ ∧
    ((reading true).chan .ch0).dma = some ⟨.read, .fromCard, 512, true⟩ ∧
    (programming true).aborted = false ∧ (reading true).aborted = false := by decide
/-- A program DMA of the page at offset 0 that has performed, its command and its data received by the card. -/
def performed : State := { programming true with
  ch0 := { (programming true).ch0 with trace := [.dmaData .toCard (List.replicate 128 0)] }
  env0 := { Env.reset with card := { Card.reset with cmd := 0xF2 :: addrEncode 0, received := 133 } } }
theorem witness_RacedStoresMakeTheSentByteADraw_late : performed.aborted = false ∧
    (performed.chan .ch0).programDone = false ∧ (performed.chan .ch0).dma = some ⟨.program, .toCard, 128, true⟩ ∧
    (performed.chan .ch0).trace = [] ++ [.dmaData .toCard (List.replicate 128 0)] ∧
    (performed.env .ch0).card.cmd.head? = some 0xF2 ∧ cmdOffset (performed.env .ch0).card.cmd % 128 = 0 ∧
    (performed.env .ch0).card.received = 133 := ⟨rfl, rfl, rfl, rfl, rfl, by decide, rfl⟩
theorem witness_RacedStoresMakeTheSentByteADraw_read (p : Bool) : (reading p).aborted = false ∧ 511 < 512 ∧
    ((reading p).chan .ch0).readDone = false ∧ NoBusError .ch0 (reading p) ∧
    ((reading p).chan .ch0).dma = some ⟨.read, .fromCard, 512, p⟩ := by cases p <;> decide
-- P2's card and offset
theorem witness_ProgrammedPageReadsBack : ChannelFree .ch0 (withCard 0xC221 []) ∧
    NoBusError .ch0 (withCard 0xC221 []) ∧ ((withCard 0xC221 []).env .ch0).card.model = .reference ∧
    (0xA000 : Word).toNat % 128 = 0 ∧ ((withCard 0xC221 []).chan .ch0).programDone = true ∧
    ((withCard 0xC221 []).chan .ch0).readDone = true ∧ ((withCard 0xC221 []).chan .ch0).wbufRaced = [] ∧
    ((withCard 0xC221 []).chan .ch0).rbufRaced = [] ∧ ((withCard 0xC221 []).env .ch0).aligned .program = true ∧
    ((withCard 0xC221 []).env .ch0).aligned .read = true := by decide
-- A dummy count that is not the card's latency: one of 0 and 1 is such a count
theorem witness_ProgrammedPageReadsBack_count :
    0 ≠ ((withCard 0xC221 []).env .ch0).card.latency ∨ 1 ≠ ((withCard 0xC221 []).env .ch0).card.latency := by omega
-- The first and the last byte of the page data of a span, and a command that is no PAGE_PROGRAM
theorem witness_ReceivedPageDataLandsInItsPage :
    (Env.reset.card.cmdAfter (0xF2 :: addrEncode 0xA000 ++ [0xEE])).head? = some 0xF2 ∧
    cmdOffset (Env.reset.card.cmdAfter (0xF2 :: addrEncode 0xA000 ++ [0xEE])) % 128 = 0 ∧
    (0xF2 :: addrEncode 0xA000 ++ [0xEE])[5]? = some 0xEE ∧ Env.reset.card.received + 5 = 5 + 0 ∧
    (∃ op ∈ ([0x52, 0x81, 0x83, 0x85, 0x89] : List Byte), (Env.reset.card.cmdAfter [0x89]).head? = some op) ∧
    (∃ op ∈ ([0x52, 0x83, 0x85, 0x89, 0xF2] : List Byte), (Env.reset.card.cmdAfter [0x89]).head? = some op) ∧
    0xA080 / 128 ≠ cmdOffset (Env.reset.card.cmdAfter (0xF2 :: addrEncode 0xA000)) / 128 ∧
    cmdOffset (Env.reset.card.cmdAfter (0xF2 :: addrEncode 0xA001)) % 128 ≠ 0 ∧
    (withCard 0 []).env0.card.model = .reference ∧ (withCard 0 []).env0.card.cmd = [] ∧
    (withCard 0 []).env0.card.received = 0 := by decide
theorem witness_EqualReadsMeanEqualMemories : Memory.wf .wbuf [(0, 0xEE), (127, 0x00)] = true := by decide
theorem witness_StepRunsTheDecodedOperation : ∃ t,
    (calling [0x06, 0] State.reset).program = .call .hostOp [0x06, 0] :: [] ∧
    decodeCall .hostOp [0x06, 0] = .ok (.join .ch0) ∧ (Instr.join .ch0).wf = true ∧
    (Instr.join .ch0).mainFlow = true ∧ (calling [0x06, 0] State.reset).agenda = [] ∧
    exec (.join .ch0) (calling [0x06, 0] State.reset) = .next t := ⟨_, rfl, rfl, rfl, rfl, rfl, rfl⟩
theorem witness_StepRunsTheDecodedOperation_scheduled : ∃ t,
    ({ calling [0x06, 0] State.reset with agenda := [.mainFlow, .dmaPerform .ch0] } : State).agenda =
      .mainFlow :: [.dmaPerform .ch0] ∧
    exec (.join .ch0) (({ calling [0x06, 0] State.reset with agenda := [.mainFlow, .dmaPerform .ch0] } : State).setAgenda
      [.dmaPerform .ch0]) = .next t := ⟨_, rfl, rfl⟩
theorem witness_StepRunsTheDecodedOperation_bench :
    ({ State.reset with agenda := [.bench .busOp [0x11, 0]] } : State).agenda = .bench .busOp [0x11, 0] :: [] ∧
    decodeCall .busOp [0x11, 0] = .ok (.unlock .ch0) ∧ (Instr.unlock .ch0).wf = true ∧
    (Instr.unlock .ch0).mainFlow = false ∧ MainFlowNext State.reset := ⟨rfl, rfl, rfl, rfl, .inl rfl⟩
-- An access that answers and one that faults, words that are no operation, a main flow with nothing left, attach
theorem witness_StepRunsTheDecodedOperation_others : ∃ t,
    ({ State.reset with program := [.access (.storeWbuf .ch0 127 0xEE)] } : State).program =
      .access (.storeWbuf .ch0 127 0xEE) :: [] ∧
    runAccess (.storeWbuf .ch0 127 0xEE) { State.reset with program := [.access (.storeWbuf .ch0 127 0xEE)] } = .next t ∧
    runAccess (.storeWbuf .ch0 128 0xEE) State.reset = .fault (.noSuchAddress .wbuf 128) ∧
    MainFlowNext (calling [0x09] State.reset) ∧ decodeCall .hostOp [0x09] = .error (.unassigned 0x09) ∧
    decodeCall .busOp [0x16, 0, 0, 1, 0] = .ok (.dmaTransfer .ch0 .program .fromCard 128) ∧
    (Instr.dmaTransfer .ch0 .program .fromCard 128).wf = false ∧
    State.reset.program = [] ∧ State.reset.agenda = [] ∧
    (State.reset.setAgenda [.attach .ch0 false]).agenda = .attach .ch0 false :: [] :=
  ⟨_, rfl, rfl, rfl, .inl rfl, rfl, rfl, by decide, rfl, rfl, rfl⟩
theorem witness_StepRunsTheDecodedOperation_agents : ∃ t u,
    step ((programming true).setAgenda [.dmaComplete .ch0]) = .next t ∧
    step (interruptible.setAgenda [.cardInterrupt .ch0]) = .next u := ⟨_, _, rfl, rfl⟩
theorem witness_ProtocolInvariantIsKept : ProtocolInv (calling [0x06, 0] State.reset) ∧
    (calling [0x06, 0] State.reset).ch0 = Chan.reset ∧ (calling [0x06, 0] State.reset).ch1 = Chan.reset ∧
    NoBench (calling [0x06, 0] State.reset).agenda ∧ ∃ t, step (calling [0x06, 0] State.reset) = .next t := by
  have h : NoBench [] := fun _ _ => by simp
  exact ⟨⟨h, fun _ c => by cases c <;> decide⟩, rfl, rfl, h, _, rfl⟩
theorem witness_ProtocolInvariantIsKept_event : ProtocolInv ((programming true).setAgenda [.dmaComplete .ch0]) ∧
    ((programming true).setAgenda [.dmaComplete .ch0]).agenda = .dmaComplete .ch0 :: [] :=
  ⟨⟨fun _ _ => by simp [State.setAgenda], fun _ c => by cases c <;> decide⟩, rfl⟩
/-- A state with a byte written and a race on record while the program flag is false. -/
def racing : State := { calling [0x06, 0] State.reset with
  ch0 := { Chan.reset with wbuf := [(0, 0xEE)], programDone := false, wbufRaced := [127] } }
theorem witness_MemoryInvariantIsKept :
    MemoryInv racing ∧ ∃ t, step racing = .next t := by
  refine ⟨fun c => ⟨fun sp => ?_, ?_, ?_⟩, _, rfl⟩
  · cases c <;> cases sp <;>
      exact ⟨by decide, by simp [Within, State.mem, State.chan, State.env, racing, calling, State.reset, Chan.reset, Env.reset,
        Card.reset, Memory.size, Config.writeBufLen]⟩
  · cases c <;> decide
  · cases c <;> decide
theorem witness_TheFatalMarkFreezesTheBlock : State.reset.abort.aborted = true ∧
    ∃ t, step State.reset.abort = .next t := ⟨rfl, _, rfl⟩
-- A flag that becomes true, a flag that becomes false, a DMA record that is cleared
theorem witness_OnlyBeginAndCallbackWriteTheFlags :
    (∃ t, step ((programming true).setAgenda [.dmaComplete .ch0]) = .next t ∧
      (((programming true).setAgenda [.dmaComplete .ch0]).chan .ch0).flag .program = false ∧
      (t.chan .ch0).flag .program = true ∧ (t.chan .ch0).dma = none) ∧
    ∃ t, step (calling [0x04, 0, 0, 0, 0, 0, 0] State.reset) = .next t ∧
      (State.reset.chan .ch0).flag .program = true ∧ (t.chan .ch0).flag .program = false :=
  ⟨⟨_, rfl, by decide⟩, _, rfl, by decide⟩
theorem witness_OperationsWriteNoBuffer : (∃ t, exec (.isAttached .ch0) State.reset = .next t) ∧
    (Instr.isAttached .ch0).mainFlow = true := ⟨⟨_, rfl⟩, rfl⟩
theorem witness_ChannelsAreIndependent : (∃ t, exec (.join .ch0) State.reset = .next t) ∧
    Channel.ch1 ≠ (Instr.join .ch0).channel := ⟨⟨_, rfl⟩, by decide⟩
theorem witness_EveryOperationAnswers : ∃ t u, exec (.getId .ch0 sp0) (programming false) = .next t ∧
    t.ret = .raised .errBusy (.channel .ch0) ∧ exec (.unlock .ch0) State.reset = .next u ∧
    u.ret = .raised .errProtocol .nothing := ⟨_, _, rfl, rfl, rfl, rfl⟩
-- A step that changes the geometry record and one that changes the handler
theorem witness_GeometryAndHandlerHaveOneWriter :
    (∃ t, step (calling [0x08, 0, 0x30, 0x00] State.reset) = .next t ∧
      (t.chan .ch0).geom ≠ (State.reset.chan .ch0).geom) ∧
    ∃ t, step { State.reset with program := [.call .busOp [0x17, 0, 0]] } = .next t ∧
      (t.chan .ch0).intHandler ≠ (State.reset.chan .ch0).intHandler := ⟨⟨_, rfl, by decide⟩, _, rfl, by decide⟩

end Sys2Proof.Tests
end

/-! ## The protocol invariant (R50)

Between steps a channel either rests or has one DMA in flight (`chanInv_iff`). The lines of an operation and of an event
body move it from one of these phases to the other through a third, an open span with no DMA issued, and a line inside
its precondition can end in two ways only: in the next phase, or in the bus error, which sets the fatal mark
(`Res.Runs`). -/

namespace Sys2Proof.Machine

open Sys2Proof.Safety

/-! ### The phases of a channel -/

/-- The completion flag that is false is the pending kind's, and with nothing pending both are true. -/
def Chan.Pending (p : Option DmaKind) (x : Chan) : Prop :=
  (x.programDone = false ↔ p = some .program) ∧ (x.readDone = false ↔ p = some .read)

/-- No span is open; the lock may be held already, and a flag cleared (R182). -/
structure Chan.Resting (owner : Option DeviceSlot) (p : Option DmaKind) (x : Chan) : Prop where
  owner : x.lockOwner = owner
  sel : x.sel = none
  fsm : x.fsm = .idle
  dma : x.dma = none
  flags : x.Pending p

/-- A DMA is in flight (R35), performed or not. -/
structure Chan.InFlight (d : Dma) (x : Chan) : Prop where
  owner : x.lockOwner ≠ none
  sel : x.sel ≠ none
  fsm : x.fsm = .awaitingDMA
  dma : x.dma = some d
  flags : x.Pending (some d.kind)
  dir : d.dir = d.kind.dir
  len : d.len = d.kind.len

/-- A span is open on the channel and no DMA is issued in it; the buffer of a transfer that is pending is well placed
(R65 item 1). -/
structure Spanning (c : Channel) (p : Option DmaKind) (f : Fsm) (s : State) : Prop where
  owner : (s.chan c).lockOwner ≠ none
  sel : (s.chan c).sel ≠ none
  fsm : (s.chan c).fsm = f
  dma : (s.chan c).dma = none
  flags : (s.chan c).Pending p
  placed : ∀ k ∈ p, (s.env c).aligned k = true

/-- R50, as the two phases a channel is in between steps. -/
theorem chanInv_iff {x : Chan} : ChanInv x ↔ x.Resting none none ∨ ∃ d, x.InFlight d := by
  constructor
  · rintro ⟨hidle, hspan, hawait, hprog, hread, -, hlock, hshape⟩
    cases hd : x.dma with
    | none =>
      have hl : x.lockOwner = none := by simpa [hd] using hlock
      have hs : x.sel = none := by by_contra h; exact hspan h hl
      exact .inl ⟨hl, hs, hidle.mpr hs, hd, by simp [Chan.Pending, hprog, hread, hd]⟩
    | some d =>
      have hf : x.fsm = .awaitingDMA := hawait (by simp [hd])
      have hs : x.sel ≠ none := fun h => by simp [hidle.mpr h] at hf
      obtain ⟨hdir, hlen⟩ : d.dir = d.kind.dir ∧ d.len = d.kind.len := by simpa [hd] using hshape
      exact .inr ⟨d, hlock.mpr (by simp [hd]), hs, hf, hd, by simp [Chan.Pending, hprog, hread, hd], hdir, hlen⟩
  · rintro (⟨hl, hs, hf, hd, hp, hr⟩ | ⟨d, hl, hs, hf, hd, ⟨hp, hr⟩, hdir, hlen⟩)
    · simp_all [ChanInv]
    · cases hk : d.kind <;> simp_all [ChanInv]

theorem Chan.Resting.chanInv {x : Chan} (h : x.Resting none none) : ChanInv x := chanInv_iff.mpr (.inl h)

theorem Chan.InFlight.chanInv {d : Dma} {x : Chan} (h : x.InFlight d) : ChanInv x := chanInv_iff.mpr (.inr ⟨d, h⟩)

theorem Chan.Pending.clear {x : Chan} (h : x.Pending none) (k : DmaKind) : (x.setFlag k false).Pending (some k) := by
  cases k <;> simp_all [Chan.Pending, Chan.setFlag]

theorem Chan.Pending.set {x : Chan} {k : DmaKind} (h : x.Pending (some k)) : (x.setFlag k true).Pending none := by
  cases k <;> simp_all [Chan.Pending, Chan.setFlag]

/-- A won lock (R121). -/
theorem Chan.Resting.locked {x : Chan} {p : Option DmaKind} (h : x.Resting none p) (slot : DeviceSlot)
    (es : List BusEvent) : Chan.Resting (some slot) p { x with lockOwner := some slot, trace := es } :=
  ⟨rfl, h.sel, h.fsm, h.dma, h.flags⟩

/-- A begin operation clears its flag (R182). -/
theorem Chan.Resting.clear {x : Chan} {owner : Option DeviceSlot} (h : x.Resting owner none) (k : DmaKind) :
    (x.setFlag k false).Resting owner (some k) :=
  ⟨by simp [h.owner], by simp [h.sel], by simp [h.fsm], by simp [h.dma], h.flags.clear k⟩

/-! ### What the invariant does not read -/

/-- What R50 says of a DMA record: everything but whether it is performed. -/
def Dma.request (d : Dma) : DmaKind × DmaDir × Nat := (d.kind, d.dir, d.len)

@[simp] theorem Dma.request_performed (d : Dma) (b : Bool) :
    ({ d with performed := b } : Dma).request = d.request := rfl

/-- The two channel states agree in all that R50 speaks of. -/
structure Chan.SameProtocol (x y : Chan) : Prop where
  owner : y.lockOwner = x.lockOwner
  sel : y.sel = x.sel
  fsm : y.fsm = x.fsm
  dma : y.dma.map Dma.request = x.dma.map Dma.request
  programDone : y.programDone = x.programDone
  readDone : y.readDone = x.readDone

theorem Chan.SameProtocol.pending {x y : Chan} {p : Option DmaKind} (h : x.SameProtocol y) (hx : x.Pending p) :
    y.Pending p := by simpa [Chan.Pending, h.programDone, h.readDone] using hx

theorem Chan.SameProtocol.chanInv {x y : Chan} (h : x.SameProtocol y) (hx : ChanInv x) : ChanInv y := by
  obtain hx | ⟨d, hx⟩ := chanInv_iff.mp hx
  · exact Chan.Resting.chanInv ⟨h.owner.trans hx.owner, h.sel.trans hx.sel, h.fsm.trans hx.fsm,
      by simpa [hx.dma] using h.dma, h.pending hx.flags⟩
  · obtain ⟨d', hd', hreq⟩ : ∃ d', y.dma = some d' ∧ d'.request = d.request := by simpa [hx.dma] using h.dma
    obtain ⟨hk, hdir, hlen⟩ : d'.kind = d.kind ∧ d'.dir = d.dir ∧ d'.len = d.len := by
      simpa [Dma.request] using hreq
    exact Chan.InFlight.chanInv ⟨h.owner ▸ hx.owner, h.sel ▸ hx.sel, h.fsm.trans hx.fsm, hd',
      hk ▸ h.pending hx.flags, by rw [hk, hdir, hx.dir], by rw [hk, hlen, hx.len]⟩

theorem Spanning.congr {c : Channel} {p : Option DmaKind} {f : Fsm} {s t : State} (h : Spanning c p f s)
    (hc : (s.chan c).SameProtocol (t.chan c)) (he : (t.env c).buffers = (s.env c).buffers) : Spanning c p f t where
  owner := hc.owner ▸ h.owner
  sel := hc.sel ▸ h.sel
  fsm := hc.fsm.trans h.fsm
  dma := by simpa [h.dma] using hc.dma
  flags := hc.pending h.flags
  placed k hk := (Env.aligned_congr he k).trans (h.placed k hk)

/-! ### Lines that run inside their preconditions -/

/-- The lines end in a state with the property, or in the bus error (R132). -/
def Res.Runs {α : Type} (P : State → Prop) : Res α → Prop
  | .ok _ t => P t
  | .raise e _ t => e = .fatalBus ∧ t.aborted = true

theorem Res.Runs.andThen {α β : Type} {P Q : State → Prop} {r : Res α} {k : α → State → Res β}
    (hr : r.Runs P) (hk : ∀ a s, P s → (k a s).Runs Q) : (r.andThen k).Runs Q := by
  cases r with
  | ok a s => exact hk a s hr
  | raise e i s => exact hr

theorem Res.Runs.mono {α : Type} {P Q : State → Prop} {r : Res α} (hr : r.Runs P) (h : ∀ s, P s → Q s) :
    r.Runs Q := by
  cases r with
  | ok a s => exact h s hr
  | raise e i s => exact hr

theorem onBus_runs {α : Type} {P : State → Prop} {c : Channel} {s : State} {k : State → Res α}
    (hk : ∀ b, (k (s.setEnv c { s.env c with busErrorIn := b })).Runs P) : (onBus c s k).Runs P := by
  obtain hr | ⟨b, hr⟩ := onBus_cases c s k
  · rw [hr]; exact ⟨rfl, rfl⟩
  · rw [hr]; exact hk b

theorem busUnlock_runs {c : Channel} {slot : DeviceSlot} {s : State} (h : (s.chan c).Resting (some slot) none) :
    (busUnlock c s).Runs fun t => (t.chan c).Resting none none := by
  rw [busUnlock_ok (by simp [h.owner]) h.sel]
  simp only [Res.Runs, State.setChan_chan]
  exact ⟨rfl, h.sel, h.fsm, h.dma, h.flags⟩

theorem busSelect_runs {c : Channel} {slot : DeviceSlot} {sp : Speed} {p : Option DmaKind} {s : State}
    (h : (s.chan c).Resting (some slot) p) (hp : ∀ k ∈ p, (s.env c).aligned k = true) :
    (busSelect c slot sp s).Runs (Spanning c p .commandSent) := by
  rw [busSelect, if_pos ⟨h.owner, h.sel⟩]
  refine onBus_runs fun b => ?_
  constructor <;> simp [h.owner, h.dma]
  case flags => exact h.flags
  case placed => exact hp

theorem busDeselect_runs {c : Channel} {f : Fsm} {s : State} (h : Spanning c none f s) :
    (busDeselect c s).Runs fun t => ∃ slot, (t.chan c).Resting (some slot) none := by
  rw [busDeselect, if_pos ⟨h.sel, .inl h.dma⟩]
  obtain ⟨slot, hl⟩ := Option.ne_none_iff_exists'.mp h.owner
  refine onBus_runs fun b => ⟨slot, ?_⟩
  constructor <;> simp [hl, h.dma]
  case flags => exact h.flags

theorem closeSpan_runs {c : Channel} {f : Fsm} {s : State} (h : Spanning c none f s) :
    (closeSpan c s).Runs fun t => (t.chan c).Resting none none :=
  (busDeselect_runs h).andThen fun _ _ ⟨_, h⟩ => busUnlock_runs h

theorem busImmWrite_runs {c : Channel} {bytes : List Byte} {p : Option DmaKind} {f : Fsm} {s : State}
    (h : Spanning c p f s) : (busImmWrite c bytes s).Runs (Spanning c p f) := by
  rw [busImmWrite, if_pos ⟨h.sel, h.dma⟩]
  exact onBus_runs fun b => h.congr (by constructor <;> simp) (by simp)

theorem busImmRead_runs {c : Channel} {n : Nat} {p : Option DmaKind} {f : Fsm} {s : State} (hn : 1 ≤ n)
    (h : Spanning c p f s) : (busImmRead c n s).Runs (Spanning c p f) := by
  rw [busImmRead, if_pos ⟨hn, h.sel, h.dma⟩]
  exact onBus_runs fun b => h.congr (by constructor <;> simp) (by simp)

theorem busDmaIssue_runs {c : Channel} {kind : DmaKind} {s : State} (h : Spanning c (some kind) .awaitingDMA s) :
    (busDmaIssue c kind kind.dir kind.len s).Runs fun t => ∃ d, (t.chan c).InFlight d := by
  rw [busDmaIssue, if_pos ⟨⟨rfl, rfl⟩, h.placed kind rfl, h.sel, h.dma, h.fsm⟩]
  refine onBus_runs fun b => ⟨⟨kind, kind.dir, kind.len, false⟩, ?_⟩
  constructor <;> simp [h.owner, h.sel, h.fsm]
  case flags => exact h.flags

theorem toAwaitingDma_spanning {c : Channel} {p : Option DmaKind} {f : Fsm} {s : State} (h : Spanning c p f s) :
    Spanning c p .awaitingDMA (toAwaitingDma c s) := by
  constructor <;> simp [toAwaitingDma, h.owner, h.sel, h.dma]
  case flags => exact h.flags
  case placed => exact h.placed

/-! ### The wire sequences in an open span -/

theorem wireIdentify_runs {c : Channel} {p : Option DmaKind} {f : Fsm} {s : State} (h : Spanning c p f s) :
    (wireIdentify c s).Runs (Spanning c p f) :=
  (busImmWrite_runs h).andThen fun _ _ h => (busImmRead_runs (by omega) h).andThen fun _ _ h => h

theorem wireStatus_runs {c : Channel} {p : Option DmaKind} {f : Fsm} {s : State} (h : Spanning c p f s) :
    (wireStatus c s).Runs (Spanning c p f) :=
  (busImmWrite_runs h).andThen fun _ _ h => (busImmRead_runs (by omega) h).andThen fun _ _ h => h

theorem wirePageProgram_runs {c : Channel} {o : Word} {f : Fsm} {s : State} (h : Spanning c (some .program) f s) :
    (wirePageProgram c o s).Runs fun t => ∃ d, (t.chan c).InFlight d :=
  (busImmWrite_runs h).andThen fun _ _ h => busDmaIssue_runs (toAwaitingDma_spanning h)

theorem wirePageRead_runs {c : Channel} {o : Word} {n : Nat} {f : Fsm} {s : State} (h : Spanning c (some .read) f s) :
    (wirePageRead c o n s).Runs fun t => ∃ d, (t.chan c).InFlight d :=
  (busImmWrite_runs h).andThen fun _ _ h =>
    (busImmWrite_runs (toAwaitingDma_spanning h)).andThen fun _ _ h => busDmaIssue_runs h

/-! ### Opening a span -/

/-- `Open` raises before it has changed anything, or it opens a span. -/
theorem openSpan_raises_or_runs {c : Channel} {sp : Speed} {s : State} (ha : s.aborted = false)
    (h : ChanInv (s.chan c)) :
    (∃ e i, openSpan c sp s = .raise e i s) ∨ (openSpan c sp s).Runs (Spanning c none .commandSent) := by
  rw [openSpan, unlessAborted_clear _ ha]
  split
  · exact .inl ⟨_, _, rfl⟩
  · obtain h | ⟨d, h⟩ := chanInv_iff.mp h
    · rw [busLock_free h.owner]
      exact .inr (busSelect_runs (by rw [State.setChan_chan]; exact h.locked _ _) (by simp))
    · rw [busLock_held h.owner]
      exact .inl ⟨_, _, rfl⟩

/-- `OpenBegin` raises before it has changed anything, or it opens a span with its transfer pending. -/
theorem openBegin_raises_or_runs {c : Channel} {sp : Speed} {kind : DmaKind} {s : State} (ha : s.aborted = false)
    (hk : (s.env c).aligned kind = true) (h : ChanInv (s.chan c)) :
    (∃ e i, openBegin c sp kind s = .raise e i s) ∨
      (openBegin c sp kind s).Runs (Spanning c (some kind) .commandSent) := by
  rw [openBegin, unlessAborted_clear _ ha]
  split
  · exact .inl ⟨_, _, rfl⟩
  split
  · exact .inl ⟨_, _, rfl⟩
  · obtain h | ⟨d, h⟩ := chanInv_iff.mp h
    · rw [busLock_free h.owner]
      refine .inr (busSelect_runs (slot := .card) ?_ (by simpa using hk))
      simp only [State.setChan_chan]
      exact (h.locked _ _).clear kind
    · rw [busLock_held h.owner]
      exact .inl ⟨_, _, rfl⟩

/-! ### What the steps on one channel keep -/

/-- From `s` to `t` nothing but channel `c` changes, the fatal mark is not cleared, and while it is clear the channel
keeps R50. -/
structure KeepsInv (c : Channel) (s t : State) : Prop where
  onlyOn : OnlyOn c s t
  mark : t.aborted = false → s.aborted = false
  inv : t.aborted = false → ChanInv (s.chan c) → ChanInv (t.chan c)

theorem KeepsInv.refl (c : Channel) (s : State) : KeepsInv c s s := ⟨OnlyOn.rfl' c s, id, fun _ => id⟩

theorem KeepsInv.setChan {c : Channel} {s t : State} (h : KeepsInv c s t) (x : Chan)
    (hx : (t.chan c).SameProtocol x := by exact ⟨rfl, rfl, rfl, rfl, rfl, rfl⟩) : KeepsInv c s (t.setChan c x) where
  onlyOn := h.onlyOn.setChan x
  mark ha := h.mark (by simpa using ha)
  inv ha hs := by simpa using hx.chanInv (h.inv (by simpa using ha) hs)

theorem KeepsInv.setEnv {c : Channel} {s t : State} (h : KeepsInv c s t) (e : Env) : KeepsInv c s (t.setEnv c e) where
  onlyOn := h.onlyOn.setEnv e
  mark ha := h.mark (by simpa using ha)
  inv ha hs := by simpa using h.inv (by simpa using ha) hs

theorem KeepsInv.emit {c : Channel} {s t : State} (h : KeepsInv c s t) (ev : BusEvent) : KeepsInv c s (t.emit c ev) :=
  h.setChan _

theorem KeepsInv.withRet {c : Channel} {s t : State} (h : KeepsInv c s t) (r : Ret) : KeepsInv c s (t.setRet r) where
  onlyOn := h.onlyOn.withRet r
  mark := h.mark
  inv ha hs := by simpa using h.inv ha hs

theorem KeepsInv.abort {c : Channel} {s t : State} (h : KeepsInv c s t) : KeepsInv c s t.abort :=
  ⟨h.onlyOn.abort, by simp, by simp⟩

theorem KeepsInv.protocolInv {c : Channel} {s t : State} (h : KeepsInv c s t) (hs : ProtocolInv s) :
    ProtocolInv t := by
  refine ⟨by rw [h.onlyOn.agenda]; exact hs.1, fun ha d => ?_⟩
  have hinv := hs.2 (h.mark ha)
  by_cases hd : d = c
  · subst hd; exact h.inv ha (hinv d)
  · rw [h.onlyOn.chan d hd]; exact hinv d

/-- Lines that stay on their channel keep the invariant if they respect the fatal mark, set or clear. -/
theorem Res.all_keepsInv {α : Type} {c : Channel} {s : State} {r : Res α} (ho : r.All (OnlyOn c s))
    (hset : s.aborted = true → r.All fun t => t.aborted = true)
    (hclear : s.aborted = false → ChanInv (s.chan c) → r.All fun t => t.aborted = false → ChanInv (t.chan c)) :
    r.All (KeepsInv c s) := by
  cases hs : s.aborted with
  | true =>
    have hset := hset hs
    cases r <;> exact ⟨ho, fun ha => by simp_all [Res.All], fun ha => by simp_all [Res.All]⟩
  | false =>
    cases r <;> exact ⟨ho, fun _ => hs, fun ha hinv => hclear hs hinv ha⟩

theorem Res.Runs.all_inv {α : Type} {c : Channel} {r : Res α} (hr : r.Runs fun t => ChanInv (t.chan c)) :
    r.All fun t => t.aborted = false → ChanInv (t.chan c) := by
  cases r with
  | ok a t => exact fun _ => hr
  | raise e i t => exact fun ha => by simp [hr.2] at ha

/-- Lines after an opening that raised nothing or opened a span. -/
theorem Res.all_inv_of_open {α β : Type} {c : Channel} {P : State → Prop} {s : State} {r : Res α}
    {k : α → State → Res β} (hs : ChanInv (s.chan c)) (hr : (∃ e i, r = .raise e i s) ∨ r.Runs P)
    (hk : ∀ a t, P t → (k a t).Runs fun t => ChanInv (t.chan c)) :
    (r.andThen k).All fun t => t.aborted = false → ChanInv (t.chan c) := by
  obtain ⟨e, i, rfl⟩ | hr := hr
  · exact fun _ => hs
  · exact (hr.andThen hk).all_inv

theorem finish_keepsInv {c : Channel} {s t : State} {r : Res Value} (h : finish s r = .next t)
    (hr : r.All (KeepsInv c s)) : KeepsInv c s t :=
  finish_of_all h (.refl c s) hr fun _ _ h => h.withRet _

/-! ### Operations -/

/-- A command in a full transaction keeps the invariant if it stays in the span. -/
theorem inSpan_keepsInv {α : Type} {c : Channel} {sp : Speed} {s : State} {body : State → Res α}
    (ho : ∀ t, OnlyOn c s t → (body t).All (OnlyOn c s))
    (hb : ∀ t, Spanning c none .commandSent t → (body t).Runs (Spanning c none .commandSent)) :
    (inSpan c sp s body).All (KeepsInv c s) := by
  refine Res.all_keepsInv (inSpan_onlyOn (OnlyOn.rfl' c s) ho) (fun ha => ?_) fun ha hinv => ?_
  · simp [inSpan, openSpan, ha, Res.All]
  · exact Res.all_inv_of_open hinv (openSpan_raises_or_runs ha hinv) fun _ t ht => (hb t ht).andThen fun _ _ h =>
      (closeSpan_runs h).andThen fun _ _ h => h.chanInv

theorem readStatusOnce_keepsInv {c : Channel} {sp : Speed} {s : State} :
    (readStatusOnce c sp s).All (KeepsInv c s) :=
  inSpan_keepsInv (fun _ => wireStatus_onlyOn) fun _ => wireStatus_runs

/-- A begin operation keeps the invariant if its wire sequence issues the DMA. -/
theorem begin_keepsInv {c : Channel} {sp : Speed} {kind : DmaKind} {s : State} {wire : State → Res Unit}
    (hk : (s.env c).aligned kind = true) (ho : ∀ t, OnlyOn c s t → (wire t).All (OnlyOn c s))
    (hw : ∀ t, Spanning c (some kind) .commandSent t → (wire t).Runs fun t => ∃ d, (t.chan c).InFlight d) :
    ((openBegin c sp kind s).andThen fun _ t => wire t).All (KeepsInv c s) := by
  refine Res.all_keepsInv (Res.all_andThen (openBegin_onlyOn (OnlyOn.rfl' c s)) fun _ t h => ho t h) (fun ha => ?_)
    fun ha hinv => ?_
  · simp [openBegin, ha, Res.All]
  · exact Res.all_inv_of_open hinv (openBegin_raises_or_runs ha hk hinv) fun _ t ht =>
      (hw t ht).mono fun _ ⟨_, h⟩ => h.chanInv

theorem execBeginProgram_keepsInv {c : Channel} {sp : Speed} {o : Word} {s t : State}
    (h : execBeginProgram c sp o s = .next t) : KeepsInv c s t := by
  refine finish_keepsInv h ?_
  cases hk : (s.env c).aligned .program
  · exact KeepsInv.refl c s
  · exact Res.all_unit (begin_keepsInv hk (fun _ => wirePageProgram_onlyOn) fun _ => wirePageProgram_runs)

theorem execBeginRead_keepsInv {c : Channel} {sp : Speed} {o : Word} {n : Nat} {s t : State}
    (h : execBeginRead c sp o n s = .next t) : KeepsInv c s t := by
  refine finish_keepsInv h ?_
  cases hk : dummiesFit n && (s.env c).aligned .read
  · exact KeepsInv.refl c s
  · exact Res.all_unit (begin_keepsInv (Bool.and_eq_true_iff.mp hk).2 (fun _ => wirePageRead_onlyOn)
      fun _ => wirePageRead_runs)

theorem execJoin_keepsInv {c : Channel} {s t : State} (h : execJoin c s = .next t) : KeepsInv c s t := by
  cases h
  split
  · exact (KeepsInv.refl c s).withRet _
  · split <;> exact (KeepsInv.refl c s).withRet _

theorem execWaitReady_keepsInv {c : Channel} {sp : Speed} {s t : State} (h : execWaitReady c sp s = .next t) :
    KeepsInv c s t := by
  have hpoll := readStatusOnce_keepsInv (c := c) (sp := sp) (s := s)
  cases h
  split
  · next e i u hr =>
    rw [hr] at hpoll
    exact raiseEnd_of (KeepsInv.refl c s) hpoll fun _ _ h => h.withRet _
  · next st u hr =>
    rw [hr] at hpoll
    split <;> exact KeepsInv.withRet hpoll _

theorem execDecodeGeometry_keepsInv {c : Channel} {id : IdWord} {s t : State}
    (h : execDecodeGeometry c id s = .next t) : KeepsInv c s t := by
  cases h
  split
  · exact (KeepsInv.refl c s).withRet _
  · exact ((KeepsInv.refl c s).setChan _).withRet _

theorem execRegisterIntHandler_keepsInv {c : Channel} {hd : Handler} {s t : State}
    (h : execRegisterIntHandler c hd s = .next t) : KeepsInv c s t :=
  finish_keepsInv h (Res.all_unlessAborted (KeepsInv.refl c s) fun _ => (KeepsInv.refl c s).setChan _)

/-- Every operation the main flow may call keeps R50 on its channel. -/
theorem exec_keepsInv {i : Instr} {s t : State} (hm : i.mainFlow = true) (h : exec i s = .next t) :
    KeepsInv i.channel s t := by
  cases i with
  | getId c sp =>
    exact finish_keepsInv h (Res.all_andThen
      (inSpan_keepsInv (fun _ => wireIdentify_onlyOn) fun _ => wireIdentify_runs) fun _ _ h => h)
  | readStatus c sp => exact finish_keepsInv h (Res.all_andThen readStatusOnce_keepsInv fun _ _ h => h)
  | clearStatus c sp =>
    exact finish_keepsInv h (Res.all_unit (inSpan_keepsInv (fun _ => busImmWrite_onlyOn) fun _ => busImmWrite_runs))
  | enableInterrupt c sp en =>
    exact finish_keepsInv h (Res.all_unit (inSpan_keepsInv (fun _ => busImmWrite_onlyOn) fun _ => busImmWrite_runs))
  | beginProgram c sp o => exact execBeginProgram_keepsInv h
  | beginRead c sp o n => exact execBeginRead_keepsInv h
  | join c => exact execJoin_keepsInv h
  | waitReady c sp => exact execWaitReady_keepsInv h
  | decodeGeometry c id => exact execDecodeGeometry_keepsInv h
  | registerIntHandler c hd => exact execRegisterIntHandler_keepsInv h
  | isAttached c => exact finish_keepsInv (r := .ok (.bool (s.env c).attached) s) h (KeepsInv.refl c s)
  | _ => cases hm

/-! ### Accesses of the main flow -/

/-- An access that answers answers the state it leaves. -/
theorem atIndex_inv {sp : Space} {i : Nat} {t u : State} (h : atIndex sp i t = .next u) : u = t := by
  unfold atIndex at h
  split at h
  · exact (Host.Outcome.next.inj h).symm
  · cases h

theorem loadRbuf_keepsInv (c : Channel) (i : Nat) (s : State) : KeepsInv c s (loadRbuf c i s) := by
  unfold loadRbuf
  split
  · exact ((KeepsInv.refl c s).setEnv _).withRet _
  · exact (KeepsInv.refl c s).withRet _

theorem amendLate_keepsInv {c : Channel} {s t : State} (i : Nat) (h : KeepsInv c s t) :
    KeepsInv c s (amendLate c i t) := by
  unfold amendLate
  split
  · exact (h.setChan _).setEnv _
  · exact h

theorem storeWbuf_keepsInv (c : Channel) (i : Nat) (v : Byte) (s : State) : KeepsInv c s (storeWbuf c i v s) := by
  refine KeepsInv.withRet ?_ _
  split
  · exact (KeepsInv.refl c s).setChan _
  · exact amendLate_keepsInv i ((KeepsInv.refl c s).setChan _)

theorem storeRbuf_keepsInv (c : Channel) (i : Nat) (v : Byte) (s : State) : KeepsInv c s (storeRbuf c i v s) :=
  ((KeepsInv.refl c s).setChan _).withRet _

theorem runAccess_keepsInv {a : Access} {s t : State} (h : runAccess a s = .next t) : ∃ c, KeepsInv c s t := by
  unfold runAccess at h
  split at h
  · cases h; exact ⟨.ch0, (KeepsInv.refl _ s).withRet _⟩
  cases a with
  | loadRbuf c i => exact ⟨c, atIndex_inv h ▸ loadRbuf_keepsInv c i s⟩
  | loadWbuf c i => exact ⟨c, atIndex_inv h ▸ (KeepsInv.refl c s).withRet _⟩
  | storeWbuf c i v => exact ⟨c, atIndex_inv h ▸ storeWbuf_keepsInv c i v s⟩
  | storeRbuf c i v => exact ⟨c, atIndex_inv h ▸ storeRbuf_keepsInv c i v s⟩
  | loadFlags c => cases h; exact ⟨c, (KeepsInv.refl c s).withRet _⟩
  | loadGeom c => cases h; exact ⟨c, (KeepsInv.refl c s).withRet _⟩

/-! ### The DMA engine -/

theorem moveData_keepsInv {c : Channel} {s t : State} (dir : DmaDir) (h : KeepsInv c s t) :
    KeepsInv c s (moveData c dir t) := by
  cases dir with
  | toCard => exact (h.setEnv _).emit _
  | fromCard => exact ((h.setChan _).setEnv _).emit _

theorem markPerformed_keepsInv {c : Channel} {s t : State} (h : KeepsInv c s t) :
    KeepsInv c s (markPerformed c t) :=
  h.setChan _ ⟨rfl, rfl, rfl, by simp [Function.comp_def], rfl, rfl⟩

theorem dmaPerform_keepsInv (c : Channel) (s : State) : KeepsInv c s (dmaPerform c s) := by
  unfold dmaPerform
  split
  · exact .refl c s
  · next d _ =>
    split
    · exact .refl c s
    · obtain hr | ⟨b, hr⟩ := onBus_cases c s fun t => .ok () (markPerformed c (moveData c d.dir t))
      · rw [hr]; exact (KeepsInv.refl c s).abort
      · rw [hr]; exact markPerformed_keepsInv (moveData_keepsInv _ ((KeepsInv.refl c s).setEnv _))

theorem settleRaces_onlyOn {c : Channel} {s t : State} (kind : DmaKind) (h : OnlyOn c s t) :
    OnlyOn c s (settleRaces c kind t) := by
  cases kind with
  | program => exact h.setChan _
  | read => exact (h.setChan _).setEnv _

theorem settleRaces_sameProtocol (c : Channel) (kind : DmaKind) (s : State) :
    (s.chan c).SameProtocol ((settleRaces c kind s).chan c) := by
  cases kind <;> constructor <;> simp [settleRaces]

/-- The callback of the DMA in flight closes its span. -/
theorem callback_runs {c : Channel} {d : Dma} {s : State} (h : (s.chan c).InFlight d) :
    (callback c d.kind s).Runs fun t => (t.chan c).Resting none none := by
  have hsettle := settleRaces_sameProtocol c d.kind s
  refine closeSpan_runs (f := .awaitingDMA) ?_
  constructor <;> simp [hsettle.owner, hsettle.sel, hsettle.fsm, h.owner, h.sel, h.fsm]
  case flags => exact Chan.Pending.set (hsettle.pending h.flags)

theorem callback_onlyOn {c : Channel} {kind : DmaKind} {s : State} : (callback c kind s).All (OnlyOn c s) :=
  closeSpan_onlyOn ((((settleRaces_onlyOn kind (OnlyOn.rfl' c s)).setChan _).emit _).setChan _)

theorem dmaCompleteBody_aborted {c : Channel} {s : State} (ha : s.aborted = true) :
    dmaCompleteBody c s = .ok () s := by
  unfold dmaCompleteBody
  split
  · rfl
  · simp [ha]

theorem dmaCompleteBody_runs {c : Channel} {s : State} (h : ChanInv (s.chan c)) :
    (dmaCompleteBody c s).Runs fun t => ChanInv (t.chan c) := by
  unfold dmaCompleteBody
  split
  · exact h
  · next d hd =>
    split
    · exact h
    · obtain hrest | ⟨d', hfly⟩ := chanInv_iff.mp h
      · simp [hrest.dma] at hd
      · obtain rfl : d' = d := by simpa [hfly.dma] using hd
        exact (callback_runs hfly).mono fun _ h => h.chanInv

theorem dmaCompleteBody_onlyOn (c : Channel) (s : State) : (dmaCompleteBody c s).All (OnlyOn c s) := by
  unfold dmaCompleteBody
  split
  · exact OnlyOn.rfl' c s
  · split
    · exact OnlyOn.rfl' c s
    · exact callback_onlyOn

/-! ### The card interrupt -/

theorem clearStatusHandler_runs {c : Channel} {sp : Speed} {s : State} (h : ChanInv (s.chan c)) :
    (clearStatusHandler c sp s).Runs fun t => ChanInv (t.chan c) := by
  unfold clearStatusHandler
  obtain hrest | ⟨d, hfly⟩ := chanInv_iff.mp h
  · rw [busLock_free hrest.owner]
    refine (busSelect_runs (p := none) ?_ (by simp)).andThen fun _ _ h => (busImmWrite_runs h).andThen fun _ _ h =>
      (closeSpan_runs h).mono fun _ h => h.chanInv
    rw [State.setChan_chan]
    exact hrest.locked .card _
  · rw [busLock_held hfly.owner]
    exact h

theorem clearStatusHandler_onlyOn (c : Channel) (sp : Speed) (s : State) :
    (clearStatusHandler c sp s).All (OnlyOn c s) := by
  have hl := busLock_onlyOn (slot := .card) (OnlyOn.rfl' c s)
  unfold clearStatusHandler
  split
  · next e => rw [e] at hl; exact hl
  · next e =>
    rw [e] at hl
    exact Res.all_andThen (busSelect_onlyOn hl) fun _ _ h => Res.all_andThen (busImmWrite_onlyOn h) fun _ _ h =>
      closeSpan_onlyOn h

theorem cardInterruptBody_aborted {c : Channel} {s : State} (ha : s.aborted = true) :
    cardInterruptBody c s = .ok () s := by simp [cardInterruptBody, ha]

theorem cardInterruptBody_runs {c : Channel} {s : State} (h : ChanInv (s.chan c)) :
    (cardInterruptBody c s).Runs fun t => ChanInv (t.chan c) := by
  unfold cardInterruptBody
  split
  · exact h
  · split
    · exact h
    · exact clearStatusHandler_runs h

theorem cardInterruptBody_onlyOn (c : Channel) (s : State) : (cardInterruptBody c s).All (OnlyOn c s) := by
  unfold cardInterruptBody
  split
  · exact OnlyOn.rfl' c s
  · split
    · exact OnlyOn.rfl' c s
    · exact clearStatusHandler_onlyOn c _ s

/-! ### Event steps -/

/-- A body whose lines run inside their preconditions answers. -/
theorem eventStep_answers {P : State → Prop} {r : Res Unit} (hr : r.Runs P) : ∃ t, eventStep r = .next t := by
  cases r with
  | ok a t => exact ⟨t, rfl⟩
  | raise e i t => obtain ⟨rfl, -⟩ := hr; exact ⟨t, rfl⟩

theorem eventStep_keepsInv {c : Channel} {s t : State} {r : Res Unit} (ho : r.All (OnlyOn c s))
    (hset : s.aborted = true → r = .ok () s)
    (hclear : ChanInv (s.chan c) → r.Runs fun t => ChanInv (t.chan c)) (h : eventStep r = .next t) :
    KeepsInv c s t := by
  rw [eventStep_inv h]
  exact State.runBody_of_all (Res.all_keepsInv ho (fun ha => hset ha ▸ ha) fun _ hinv => (hclear hinv).all_inv)

/-- An event step answers in every state that has the invariant. -/
theorem eventStep_answers_of_inv {c : Channel} {s : State} {r : Res Unit} (hs : ProtocolInv s)
    (hset : s.aborted = true → r = .ok () s)
    (hclear : ChanInv (s.chan c) → r.Runs fun t => ChanInv (t.chan c)) : ∃ t, eventStep r = .next t := by
  cases ha : s.aborted with
  | true => exact ⟨s, by rw [hset ha]; rfl⟩
  | false => exact eventStep_answers (hclear (hs.2 ha c))

/-! ### Steps -/

theorem protocolInv_retire {s : State} (h : ProtocolInv s) : ProtocolInv s.retire := by
  simpa [ProtocolInv] using h

theorem protocolInv_retireUnlessWaiting {s : State} (h : ProtocolInv s) : ProtocolInv s.retireUnlessWaiting := by
  simpa [ProtocolInv] using h

theorem mainStep_protocolInv {s t : State} (hs : ProtocolInv s) (h : mainStep s = .next t) : ProtocolInv t := by
  unfold mainStep at h
  split at h
  · cases h; exact hs
  · split at h
    · next u hu =>
      cases h
      obtain ⟨c, hc⟩ := runAccess_keepsInv hu
      exact protocolInv_retire (hc.protocolInv hs)
    · cases h
    · cases h
  · split at h
    · cases h
    · split at h
      · next hm =>
        split at h
        · next u hu =>
          cases h
          exact protocolInv_retireUnlessWaiting ((exec_keepsInv hm hu).protocolInv hs)
        · cases h
        · cases h
      · cases h

/-- Every step of every agent but the bench keeps R50. -/
theorem agentStep_protocolInv {a : AgentStep} {s t : State} (ha : ∀ space words, a ≠ .bench space words)
    (hs : ProtocolInv s) (h : agentStep a s = .next t) : ProtocolInv t := by
  cases a with
  | mainFlow => exact mainStep_protocolInv hs h
  | dmaPerform c => cases h; exact (dmaPerform_keepsInv c s).protocolInv hs
  | dmaComplete c =>
    exact (eventStep_keepsInv (dmaCompleteBody_onlyOn c s) dmaCompleteBody_aborted dmaCompleteBody_runs
      h).protocolInv hs
  | cardInterrupt c =>
    exact (eventStep_keepsInv (cardInterruptBody_onlyOn c s) cardInterruptBody_aborted cardInterruptBody_runs
      h).protocolInv hs
  | attach c b => cases h; exact ((KeepsInv.refl c s).setEnv _).protocolInv hs
  | armBusError c k => cases h; exact ((KeepsInv.refl c s).setEnv _).protocolInv hs
  | bench space words => exact absurd rfl (ha space words)

/-- Taking the next agent off the schedule keeps R50. -/
theorem protocolInv_setAgenda_tail {s : State} {a : AgentStep} {g : List AgentStep} (hs : ProtocolInv s)
    (hg : s.agenda = a :: g) : ProtocolInv (s.setAgenda g) :=
  ⟨fun space words hmem => hs.1 space words (by rw [hg]; exact List.mem_cons_of_mem _ hmem), by simpa using hs.2⟩

theorem step_protocolInv {s t : State} (hs : ProtocolInv s) (h : step s = .next t) : ProtocolInv t := by
  unfold step at h
  split at h
  · exact mainStep_protocolInv hs h
  · next a g hg =>
    refine agentStep_protocolInv (fun space words ha => hs.1 space words ?_) (protocolInv_setAgenda_tail hs hg) h
    rw [hg, ha]; exact List.mem_cons_self

/-- What every step keeps holds after any number of steps. -/
theorem run_keeps {M : Host.Core} {P : M.State → Prop} (hstep : ∀ s t, P s → M.step s = .next t → P t) {k : Nat}
    {s t : M.State} (hs : P s) (h : M.run k s = .next t) : P t := by
  induction k generalizing s with
  | zero => cases h; exact hs
  | succ k ih =>
    unfold Host.Core.run at h
    split at h
    · next u hu => exact ih (hstep s u hs hu) h
    · cases h
    · cases h

/-- Reset channels have R50 under any schedule without the bench. -/
theorem protocolInv_of_reset {s : State} (h0 : s.ch0 = Chan.reset) (h1 : s.ch1 = Chan.reset)
    (hg : NoBench s.agenda) : ProtocolInv s := by
  have hreset : ChanInv Chan.reset := by decide
  refine ⟨hg, fun _ c => ?_⟩
  cases c with
  | ch0 => rw [State.chan, h0]; exact hreset
  | ch1 => rw [State.chan, h1]; exact hreset

theorem step_event_answers {s : State} {c : Channel} {g : List AgentStep} (hs : ProtocolInv s)
    (h : s.agenda = .dmaPerform c :: g ∨ s.agenda = .dmaComplete c :: g ∨ s.agenda = .cardInterrupt c :: g) :
    ∃ t, step s = .next t := by
  unfold step
  obtain hg | hg | hg := h <;> have hs' := protocolInv_setAgenda_tail hs hg <;> rw [hg]
  · exact ⟨_, rfl⟩
  · exact eventStep_answers_of_inv hs' dmaCompleteBody_aborted dmaCompleteBody_runs
  · exact eventStep_answers_of_inv hs' cardInterruptBody_aborted cardInterruptBody_runs

/-- Settles O52: each step changes one channel, and moves it between rest and a DMA in flight. -/
theorem protocolInvariantIsKept : Obligations.ProtocolInvariantIsKept :=
  ⟨fun _ _ => step_protocolInv,
    fun _ _ _ h0 h1 hg => run_keeps (M := core) (fun _ _ => step_protocolInv) (protocolInv_of_reset h0 h1 hg),
    fun _ _ _ => step_event_answers⟩

end Sys2Proof.Machine

/-! ## The address field (R96 to R98)

A mask keeps the low bits of a word (`and_mask`), and after a shift it keeps a slice. So `addrEncode` sends four
adjacent slices of the offset, `addrDecode` appends the low bits of four bytes, and the two undo each other because
adjacent slices append to one slice. -/

namespace Sys2Proof.AddressField

/-! ### Masks and slices -/

/-- The mask of the low `n` bits keeps those bits and nothing else. -/
theorem and_mask {w : Nat} (x : BitVec w) (n : Nat) :
    x &&& BitVec.ofNat w (2 ^ n - 1) = (x.setWidth n).setWidth w := by
  ext i hi
  simp [← BitVec.getLsbD_eq_getElem, BitVec.getLsbD_ofNat, Nat.testBit_two_pow_sub_one, hi, Bool.and_comm]

theorem setWidth_and_mask {w n : Nat} (x : BitVec w) (k : Nat) (h : n ≤ w) :
    (x &&& BitVec.ofNat w (2 ^ n - 1)).setWidth k = (x.setWidth n).setWidth k := by
  rw [and_mask, BitVec.setWidth_setWidth (by omega)]

/-- After a shift by `p` the mask keeps the slice of `n` bits from bit `p` on. -/
theorem setWidth_ushiftRight_and_mask {w n : Nat} (x : BitVec w) (p k : Nat) (h : n ≤ w) :
    (x >>> p &&& BitVec.ofNat w (2 ^ n - 1)).setWidth k = (x.extractLsb' p n).setWidth k := by
  rw [setWidth_and_mask _ _ h]
  congr 1
  ext i hi
  simp

/-- A word with zeros outside a mask is what the mask leaves of it. -/
theorem and_eq_self_of_and_not {w : Nat} {x m : BitVec w} (h : x &&& ~~~m = 0) : x &&& m = x := by
  calc x &&& m = (x &&& m) ||| (x &&& ~~~m) := by rw [h]; exact BitVec.or_zero.symm
    _ = x := by ext i hi; simp [← Bool.and_or_distrib_left]

/-- A word with zeros above its low `n` bits is those bits below zeros. -/
theorem setWidth_setWidth_of_and_not {w n : Nat} {x : BitVec w} (h : x &&& ~~~BitVec.ofNat w (2 ^ n - 1) = 0) :
    (x.setWidth n).setWidth w = x := by
  rw [← and_mask, and_eq_self_of_and_not h]

/-! ### The encoder by slices, the decoder by appending -/

/-- The four masks of R96 cut four adjacent slices out of the offset. -/
theorem addrEncode_eq_slices (o : Word) : addrEncode o =
    [(o.extractLsb' 17 6).setWidth 8, (o.extractLsb' 9 8).setWidth 8, (o.extractLsb' 7 2).setWidth 8,
      (o.extractLsb' 0 7).setWidth 8] := by
  have slice (p : Nat) {n : Nat} := setWidth_ushiftRight_and_mask (n := n) o p 8
  rw [← slice 17 (by decide), ← slice 9 (by decide), ← slice 7 (by decide), ← slice 0 (by decide)]
  rfl

/-- The masks and shifts of R98 append the low bits of the bytes. -/
theorem addrDecode_eq_append (b0 b1 b2 b3 : Byte) :
    addrDecode b0 b1 b2 b3 = b0.setWidth 6 ++ b1 ++ b2.setWidth 2 ++ b3.setWidth 7 := by
  have low (b : Byte) {n : Nat} := setWidth_and_mask (n := n) b 23
  rw [← BitVec.setWidth_eq (_ ++ _ ++ _ ++ _), BitVec.setWidth_append_append_append_eq_shiftLeft_setWidth_or,
    ← low b0 (by decide), ← low b2 (by decide), ← low b3 (by decide)]
  rfl

theorem toNat_addrDecode (b0 b1 b2 b3 : Byte) : (addrDecode b0 b1 b2 b3).toNat =
    ((b0.toNat &&& 0x3F) <<< 17) ||| (b1.toNat <<< 9) ||| ((b2.toNat &&& 0x03) <<< 7) ||| (b3.toNat &&& 0x7F) := by
  have low (b : Byte) (n : Nat) : (b.setWidth n).toNat = b.toNat &&& 2 ^ n - 1 := by simp
  rw [addrDecode_eq_append]
  simp only [BitVec.toNat_append, low, Nat.shiftLeft_or_distrib, ← Nat.shiftLeft_add]
  rfl

/-! ### The round trips -/

/-- The field carries the low 23 bits of the offset (R97). -/
theorem addrOf_addrEncode (o : Word) : addrOf (addrEncode o) = o.setWidth 23 := by
  calc addrOf (addrEncode o)
    _ = o.extractLsb' 17 6 ++ o.extractLsb' 9 8 ++ o.extractLsb' 7 2 ++ o.extractLsb' 0 7 := by
      simp [addrOf, addrEncode_eq_slices, addrDecode_eq_append]
    _ = o.extractLsb' 0 23 := by simp only [BitVec.extractLsb'_append_extractLsb'_eq_extractLsb']
    _ = o.setWidth 23 := (BitVec.setWidth_eq_extractLsb' (by decide)).symm

/-- A field whose nine reserved bits are zero is the field of the offset it decodes to. -/
theorem addrEncode_addrDecode {b0 b1 b2 b3 : Byte} (h0 : b0 &&& 0xC0 = 0) (h2 : b2 &&& 0xFC = 0)
    (h3 : b3 &&& 0x80 = 0) : addrEncode ((addrDecode b0 b1 b2 b3).setWidth 32) = [b0, b1, b2, b3] := by
  have e0 := setWidth_setWidth_of_and_not (n := 6) h0
  have e2 := setWidth_setWidth_of_and_not (n := 2) h2
  have e3 := setWidth_setWidth_of_and_not (n := 7) h3
  rw [addrEncode_eq_slices, addrDecode_eq_append]
  simp (disch := decide) only [BitVec.extractLsb'_setWidth_of_le, BitVec.extractLsb'_append_eq_of_le,
    BitVec.extractLsb'_append_eq_of_add_le]
  simp [← BitVec.setWidth_eq_extractLsb', e0, e2, e3]

theorem setWidth_addrOf_addrEncode (o : Word) : (addrOf (addrEncode o)).setWidth 32 = o &&& 0x7FFFFF := by
  rw [addrOf_addrEncode]
  exact (and_mask o 23).symm

/-- The bits of the offset from 23 up are discarded (R97). -/
theorem addrEncode_and_mask (o : Word) : addrEncode (o &&& 0x7FFFFF) = addrEncode o := by
  rw [show o &&& 0x7FFFFF = (o.setWidth 23).setWidth 32 from and_mask o 23]
  simp [addrEncode_eq_slices, BitVec.extractLsb'_setWidth_of_le]

theorem toNat_addrOf_addrEncode (o : Word) : (addrOf (addrEncode o)).toNat = o.toNat % 2 ^ 23 := by
  rw [addrOf_addrEncode, BitVec.toNat_setWidth]

/-- Settles O1: the field is four slices of the offset, and its inverse appends them again. -/
theorem addressFieldAndItsInverse : Obligations.AddressFieldAndItsInverse :=
  ⟨toNat_addrDecode, fun o ho => by rw [toNat_addrOf_addrEncode, Nat.mod_eq_of_lt ho], setWidth_addrOf_addrEncode,
    fun _ _ _ _ => addrEncode_addrDecode⟩

/-- Settles O2: each mask of the encoder keeps one slice of the offset, and the slices end at bit 22. -/
theorem offsetBitsThatReachTheWire : Obligations.OffsetBitsThatReachTheWire := by
  intro o
  refine ⟨?_, (addrEncode_and_mask o).symm, toNat_addrOf_addrEncode o⟩
  rw [addrEncode_eq_slices]
  simp [BitVec.setWidth_eq_append]

end Sys2Proof.AddressField

/-! ## Primitives that only write their channel (R121, R129)

`LOCK` of a free channel and `REGISTER_INT_HANDLER` end in one update of the channel that leaves both buffers alone, so
one lemma gives the answer and the frame of both. -/

namespace Sys2Proof.Machine

open Sys2Proof.Safety

/-- Lines that end in one update of a channel, its two buffers aside, return their value and touch nothing else. -/
theorem finish_setChan_ok {c : Channel} {s : State} {x : Chan} {v : Value} (hw : x.wbuf = (s.chan c).wbuf)
    (hr : x.rbuf = (s.chan c).rbuf) :
    ∃ t, finish s (.ok v (s.setChan c x)) = .next t ∧ t.ret = .returned v ∧ t.chan c = x ∧ t.env c = s.env c ∧
      OutsideKept c s t ∧ MemoryKept c s t := by
  have hupdate : (s.setChan c x).returnValue v = ((s.setChan c x).setEnv c (s.env c)).setRet (.returned v) := by
    rw [← State.setChan_env s c c x, State.setEnv_self]
    rfl
  refine ⟨_, finish_ok .., by simp, by simp, by simp, ?_⟩
  rw [hupdate]
  exact ⟨outsideKept_update, memoryKept_update hw hr rfl rfl⟩

theorem execLock_clear {c : Channel} {slot : DeviceSlot} {s : State} (ha : s.aborted = false) :
    exec (.lock c slot) s = finish s (.ok (.bool (busLock c slot s).1) (busLock c slot s).2) :=
  congrArg (finish s) (unlessAborted_clear _ ha)

theorem execRegisterIntHandler_clear {c : Channel} {h : Handler} {s : State} (ha : s.aborted = false) :
    exec (.registerIntHandler c h) s = finish s (.ok .unit (s.setChan c { s.chan c with intHandler := some h })) :=
  congrArg (finish s) (unlessAborted_clear _ ha)

/-- Settles O12: a free lock is taken by one update of the channel, a held one leaves the state as it was. -/
theorem lockIsATryLock : Obligations.LockIsATryLock := by
  intro c slot s ha
  rw [execLock_clear ha]
  constructor
  · intro hfree
    rw [busLock_free hfree]
    exact finish_setChan_ok rfl rfl
  · intro hheld
    rw [busLock_held hheld, finish_ok]

/-- Settles O19: the handler is written by one update of the channel, which no state prevents. -/
theorem registerInstallsTheHandler : Obligations.RegisterInstallsTheHandler := by
  intro c h s ha
  rw [execRegisterIntHandler_clear ha]
  exact finish_setChan_ok rfl rfl

end Sys2Proof.Machine

/-! ## The geometry decoder (R160 to R169)

A mask and a shift keep one slice of a word, and a slice of a rotated word is a slice of the word itself. So the size
and the two indexes are three slices of the `id` (R168), and the geometry is an equation over these slices: undefined
where the selected sector-size entry is zero, a record with an exact quotient where it is not. -/

namespace Sys2Proof.GeometryDecoder

open Sys2Proof.Machine Sys2Proof.Safety

/-! ### Slices -/

/-- A mask of `n` adjacent bits, shifted down by `p`, keeps the slice of `n` bits from bit `p` on. -/
theorem and_ushiftRight_eq_slice {w p n : Nat} {m : BitVec w} (hm : m >>> p = BitVec.ofNat w (2 ^ n - 1))
    (hn : n ≤ w) (x : BitVec w) : (x &&& m) >>> p = (x.extractLsb' p n).setWidth w := by
  rw [BitVec.ushiftRight_and_distrib, hm, ← AddressField.setWidth_ushiftRight_and_mask x p w hn, BitVec.setWidth_eq]

/-- A slice of the bits that a left rotation brings down from the top. -/
theorem extractLsb'_rotl32 {p k n : Nat} (h : p + k ≤ n) (v : Word) :
    (rotl32 v n).extractLsb' p k = v.extractLsb' (32 - n + p) k := by
  ext i hi
  have hlow : p + i < n := by omega
  simp [rotl32, hlow, Nat.add_assoc]

theorem extractLsb'_id32 {p k : Nat} (h : p + k ≤ 32) (id : IdWord) :
    (id32 id).extractLsb' p k = id.extractLsb' p k :=
  BitVec.extractLsb'_setWidth_of_le h

/-- A slice that a mask covers does not see the mask. -/
theorem extractLsb'_and_of_covers {w p n : Nat} {m : BitVec w} (hm : m.extractLsb' p n = BitVec.allOnes n)
    (x : BitVec w) : (x &&& m).extractLsb' p n = x.extractLsb' p n := by
  rw [BitVec.extractLsb'_and, hm, BitVec.and_allOnes]

/-- A mask that lies inside a slice masks the slice. -/
theorem and_shiftLeft_setWidth {w p n : Nat} (x : BitVec w) (m : BitVec n) :
    x &&& m.setWidth w <<< p = (x.extractLsb' p n &&& m).setWidth w <<< p := by
  ext i hi
  by_cases hp : i < p
  · simp [hp]
  · by_cases hm : m.getLsbD (i - p)
    · have hn : i - p < n := BitVec.lt_of_getLsbD hm
      simp [hp, hn, Nat.add_sub_cancel' (Nat.le_of_not_lt hp), hi]
    · simp [hm]

/-! ### The three fields (R161 to R163, R168) -/

/-- An index as a 32-bit value: the rotation by `n`, the mask and the shift of R162 and R163 widen one slice. -/
theorem index_word {n : Nat} (h : 5 ≤ n) (id : IdWord) :
    (rotl32 (id32 id) n &&& 0x1C) >>> 2 = (id.extractLsb' (32 - n + 2) 3).setWidth 32 := by
  rw [and_ushiftRight_eq_slice (n := 3) (by decide) (by decide), extractLsb'_rotl32 h, extractLsb'_id32 (by omega)]

theorem latIdx_word (id : IdWord) :
    (rotl32 (id32 id) 26 &&& 0x1C) >>> 2 = (id.extractLsb' 8 3).setWidth 32 := index_word (by decide) id

theorem secIdx_word (id : IdWord) :
    (rotl32 (id32 id) 23 &&& 0x1C) >>> 2 = (id.extractLsb' 11 3).setWidth 32 := index_word (by decide) id

theorem geoSize_eq_slice (id : IdWord) : geoSize id = (id.extractLsb' 3 5).setWidth 32 := by
  rw [geoSize, and_ushiftRight_eq_slice (n := 5) (by decide) (by decide), extractLsb'_id32 (by decide)]

theorem latIdx_eq_slice (id : IdWord) : latIdx id = id.extractLsb' 8 3 := by
  rw [latIdx, latIdx_word, BitVec.setWidth_setWidth_of_le _ (by decide), BitVec.setWidth_eq]

theorem secIdx_eq_slice (id : IdWord) : secIdx id = id.extractLsb' 11 3 := by
  rw [secIdx, secIdx_word, BitVec.setWidth_setWidth_of_le _ (by decide), BitVec.setWidth_eq]

theorem toNat_geoSize (id : IdWord) : (geoSize id).toNat = id.toNat / 8 % 32 := by
  rw [geoSize_eq_slice, BitVec.toNat_setWidth_of_le (by decide), BitVec.extractLsb'_toNat, Nat.shiftRight_eq_div_pow]

theorem toNat_slice_setWidth_le (i : BitVec 3) : (i.setWidth 32).toNat ≤ 7 := by
  rw [BitVec.toNat_setWidth_of_le (by decide)]
  exact Nat.le_of_lt_succ i.isLt

/-- The top two bits of the index are bits 13 and 12 of the `id` (R169). -/
theorem secIdx_six_or_seven_iff (id : IdWord) : (secIdx id = 6 ∨ secIdx id = 7) ↔ id &&& 0x3000 = 0x3000 := by
  have htop : ∀ i : BitVec 3, (i = 6 ∨ i = 7) ↔ i &&& 6 = 6 := by decide
  have hmask : id &&& (0x3000 : IdWord) = (id.extractLsb' 11 3 &&& 6).setWidth 16 <<< 11 :=
    and_shiftLeft_setWidth (p := 11) id 6#3
  have hinj : ∀ i : BitVec 3, i.setWidth 16 <<< 11 = (0x3000 : IdWord) ↔ i = 6 := by decide
  rw [htop, secIdx_eq_slice, hmask, hinj]

/-! ### The geometry (R163 to R165) -/

section
variable {lat sec : BitVec 3 → Word} {id : IdWord}

/-- The guard comes before the division (R163). -/
theorem geoDecodeFrom_undefined (h : sec (id.extractLsb' 11 3) = 0) : geoDecodeFrom lat sec id = .undefined := by
  rw [geoDecodeFrom, secIdx_eq_slice, if_pos h]

theorem geoDecodeFrom_valid (h : sec (id.extractLsb' 11 3) ≠ 0) : geoDecodeFrom lat sec id =
    .valid ⟨geoSize id, lat (id.extractLsb' 8 3), sec (id.extractLsb' 11 3),
      blockCount (geoSize id) (sec (id.extractLsb' 11 3))⟩ := by
  rw [geoDecodeFrom, secIdx_eq_slice, latIdx_eq_slice, if_neg h]

theorem geoDecodeFrom_eq_undefined_iff :
    geoDecodeFrom lat sec id = .undefined ↔ sec (id.extractLsb' 11 3) = 0 := by
  refine ⟨fun h => ?_, geoDecodeFrom_undefined⟩
  by_contra hsec
  rw [geoDecodeFrom_valid hsec] at h
  cases h

/-- Bits 15, 14, 2, 1 and 0 influence no output (R168). -/
theorem geoDecodeFrom_and_mask : geoDecodeFrom lat sec (id &&& 0x3FF8) = geoDecodeFrom lat sec id := by
  have hsize : (id &&& 0x3FF8).extractLsb' 3 5 = id.extractLsb' 3 5 := extractLsb'_and_of_covers (by decide) id
  have hlat : (id &&& 0x3FF8).extractLsb' 8 3 = id.extractLsb' 8 3 := extractLsb'_and_of_covers (by decide) id
  have hsec : (id &&& 0x3FF8).extractLsb' 11 3 = id.extractLsb' 11 3 := extractLsb'_and_of_covers (by decide) id
  simp only [geoDecodeFrom, geoSize_eq_slice, latIdx_eq_slice, secIdx_eq_slice, hsize, hlat, hsec]

end

/-- The quotient is the natural one while the shift by 20 loses no bit (R164). -/
theorem toNat_blockCount {size : Word} (h : size.toNat < 2 ^ 12) (sectorSize : Word) :
    (blockCount size sectorSize).toNat = size.toNat * 2 ^ 17 / sectorSize.toNat := by
  have hnum : ((size <<< 20) >>> 3).toNat = size.toNat * 2 ^ 17 := by
    rw [BitVec.toNat_ushiftRight, BitVec.toNat_shiftLeft, Nat.shiftLeft_eq, Nat.shiftRight_eq_div_pow]
    omega
  rw [blockCount, BitVec.toNat_udiv, hnum]

theorem blockCount_zero (sectorSize : Word) : blockCount 0 sectorSize = 0 := BitVec.zero_udiv

theorem secTable_six_or_seven {i : BitVec 3} (h : i = 6 ∨ i = 7) : Config.secTable i = 0 := if_pos h

/-! ### The operation (R166) -/

theorem geometryRet_eq (id : IdWord) : geometryRet id =
    if Config.secTable (id.extractLsb' 11 3) = 0 then .raised .errUndefinedGeometry (.id id)
    else .returned (.geom (geoDecode id)) := by
  split
  · next h => rw [geometryRet, geoDecode, geoDecodeFrom_undefined h]
  · next h => rw [geometryRet, geoDecode, geoDecodeFrom_valid h]

theorem execDecodeGeometry_clear {c : Channel} {id : IdWord} {s : State} (ha : s.aborted = false) :
    exec (.decodeGeometry c id) s =
      .next ((s.setChan c { s.chan c with geom := geoDecode id }).setRet (geometryRet id)) := by
  show execDecodeGeometry c id s = _
  rw [execDecodeGeometry, ha, if_neg Bool.false_ne_true]

/-- An update of the channel alone is an update of the channel and of its environment. -/
theorem setChan_setRet_eq_update (c : Channel) (s : State) (x : Chan) (r : Ret) :
    (s.setChan c x).setRet r = ((s.setChan c x).setEnv c (s.env c)).setRet r := by
  rw [← State.setChan_env s c c x, State.setEnv_self]

/-! ### The statements -/

/-- Settles O8: the fields are slices, and the mask covers the three of them. -/
theorem geometryBitSlices : Obligations.GeometryBitSlices := fun id =>
  ⟨geoSize_eq_slice id, latIdx_eq_slice id, secIdx_eq_slice id, fun _ _ => geoDecodeFrom_and_mask.symm,
    geoDecodeFrom_and_mask.symm⟩

/-- Settles O9: the indexes are three-bit slices widened, and the top two bits of the sector index select the two slots
that the block's table leaves at zero. -/
theorem undefinedGeometryExactly : Obligations.UndefinedGeometryExactly := by
  intro lat sec id
  rw [latIdx_word, secIdx_word, latIdx_eq_slice]
  refine ⟨⟨toNat_slice_setWidth_le _, toNat_slice_setWidth_le _⟩, ⟨?_, ?_⟩, geoDecodeFrom_eq_undefined_iff,
    secIdx_six_or_seven_iff id, fun h => ?_, ?_⟩
  · exact (BitVec.toNat_setWidth_of_le (by decide)).symm
  · rw [secIdx_eq_slice, BitVec.toNat_setWidth_of_le (by decide)]
  · have hslot := (secIdx_six_or_seven_iff id).mpr h
    rw [secIdx_eq_slice] at hslot
    exact geoDecodeFrom_undefined (secTable_six_or_seven hslot)
  · rintro rfl
    have hsize : geoSize 0x0004 = 0 := by decide
    refine ⟨by decide, by decide, hsize, fun h => ?_⟩
    calc geoDecodeFrom lat sec 0x0004
      _ = .valid ⟨geoSize 0x0004, lat 0, sec 0, blockCount (geoSize 0x0004) (sec 0)⟩ := geoDecodeFrom_valid h
      _ = .valid ⟨0, lat 0, sec 0, 0⟩ := by rw [hsize, blockCount_zero]

/-- Settles O10: the size has five bits, so the shift of R164 loses none. -/
theorem geometryFieldsAndBlockCount : Obligations.GeometryFieldsAndBlockCount := by
  refine ⟨fun _ => rfl, fun lat sec id hsec => ⟨_, geoDecodeFrom_valid hsec, toNat_geoSize id, rfl, rfl, ?_, ?_⟩⟩
  · have hsize : (geoSize id).toNat < 2 ^ 12 := by rw [toNat_geoSize]; omega
    rw [toNat_blockCount hsize, toNat_geoSize]
  · intro hzero
    rw [show geoSize id = 0 from hzero, blockCount_zero]

/-- Settles O11: both ends are one update of the channel's geometry, made before the answer is chosen. -/
theorem decodeGeometryStoresAndReports : Obligations.DecodeGeometryStoresAndReports := by
  intro c id s ha
  refine ⟨_, execDecodeGeometry_clear ha, by simp, geometryRet_eq id, by simp, ?_⟩
  rw [setChan_setRet_eq_update]
  exact ⟨outsideKept_update, memoryKept_update rfl rfl rfl rfl⟩

end Sys2Proof.GeometryDecoder

/-! ## Two begin operations in a row (R192)

A transfer takes a channel that can carry transfers (`CanTransfer`) round a circle: at rest, a DMA in flight, the same
DMA performed, at rest again. At rest a begin of either kind is accepted and starts the round. In flight it is refused,
since the lock is held, and a begin of the same kind finds its flag cleared before it comes to the lock (R182). -/

namespace Sys2Proof.Machine

open Sys2Proof.Safety

/-! ### A channel that can carry transfers -/

/-- Nothing outside the block stands against a transfer on the channel, whatever phase the channel itself is in. -/
structure CanTransfer (c : Channel) (s : State) : Prop where
  unmarked : s.aborted = false
  attached : (s.env c).attached = true
  noError : NoBusError c s
  placed : ∀ kind, (s.env c).aligned kind = true

theorem CanTransfer.update {c : Channel} {s : State} {x : Chan} {e : Env} (h : CanTransfer c s)
    (hattached : e.attached = (s.env c).attached := by simp)
    (herror : e.busErrorIn = (s.env c).busErrorIn := by simp)
    (hbuffers : e.buffers = (s.env c).buffers := by simp) : CanTransfer c ((s.setChan c x).setEnv c e) where
  unmarked := by simpa using h.unmarked
  attached := by simpa [hattached] using h.attached
  noError := by simpa [NoBusError, herror] using h.noError
  placed kind := by simpa [Env.aligned_congr hbuffers] using h.placed kind

theorem CanTransfer.returnValue {c : Channel} {s : State} (h : CanTransfer c s) (v : Value) :
    CanTransfer c (s.returnValue v) where
  unmarked := h.unmarked
  attached := by simpa using h.attached
  noError := by simpa [NoBusError] using h.noError
  placed := by simpa using h.placed

theorem CanTransfer.of_channelFree {c : Channel} {s : State} (h : ChannelFree c s) (hb : NoBusError c s)
    (hprogram : (s.env c).aligned .program = true) (hread : (s.env c).aligned .read = true) : CanTransfer c s := by
  obtain ⟨hunmarked, hattached, -⟩ := h
  exact ⟨hunmarked, hattached, hb, fun kind => by cases kind <;> assumption⟩

theorem Chan.Resting.of_channelFree {c : Channel} {s : State} (h : ChannelFree c s)
    (hprogram : (s.chan c).programDone = true) (hread : (s.chan c).readDone = true) :
    (s.chan c).Resting none none := by
  obtain ⟨-, -, howner, hsel, hfsm, hdma⟩ := h
  exact ⟨howner, hsel, hfsm, hdma, by simp [Chan.Pending, hprogram, hread]⟩

theorem CanTransfer.channelFree {c : Channel} {s : State} (h : CanTransfer c s)
    (hrest : (s.chan c).Resting none none) : ChannelFree c s :=
  ⟨h.unmarked, h.attached, hrest.owner, hrest.sel, hrest.fsm, hrest.dma⟩

theorem Chan.Pending.flag_of_none {x : Chan} (h : x.Pending none) (kind : DmaKind) : x.flag kind = true := by
  cases kind <;> simp_all [Chan.Pending, Chan.flag]

/-! ### The two begin operations as one -/

/-- The DMA that a begin operation issues. -/
def Dma.ofKind (kind : DmaKind) (performed : Bool) : Dma := ⟨kind, kind.dir, kind.len, performed⟩

/-- The begin operation of a kind; the count is that of the read. -/
def beginInstr (c : Channel) (sp : Speed) (o : Word) (n : Nat) : DmaKind → Instr
  | .program => .beginProgram c sp o
  | .read => .beginRead c sp o n

/-- What the begin operation of a kind sends in the span it opens (R183, R184). -/
def beginWire (c : Channel) (o : Word) (n : Nat) : DmaKind → State → Res Unit
  | .program => wirePageProgram c o
  | .read => wirePageRead c o n

theorem exists_beginInstr {c : Channel} {sp : Speed} {o : Word} {n : Nat} {i : Instr}
    (h : i ∈ [Instr.beginProgram c sp o, .beginRead c sp o n]) : ∃ kind, i = beginInstr c sp o n kind := by
  obtain rfl | rfl : i = .beginProgram c sp o ∨ i = .beginRead c sp o n := by simpa using h
  · exact ⟨.program, rfl⟩
  · exact ⟨.read, rfl⟩

section
variable {c : Channel} {sp : Speed} {o : Word} {n : Nat} {kind : DmaKind} {s : State}

theorem exec_beginInstr (h : CanTransfer c s) (hn : n ≤ Config.readExtra) :
    exec (beginInstr c sp o n kind) s =
      finish s ((openBegin c sp kind s).andThen fun _ t => beginWire c o n kind t).unit := by
  cases kind with
  | program =>
    show execBeginProgram c sp o s = _
    rw [execBeginProgram, h.placed, ifFit_true]
    rfl
  | read =>
    have hfit : (dummiesFit n && (s.env c).aligned .read) = true := by simp [dummiesFit, hn, h.placed]
    show execBeginRead c sp o n s = _
    rw [execBeginRead, hfit, ifFit_true]
    rfl

/-! ### The round of a transfer -/

theorem openBegin_opens (h : CanTransfer c s) (hrest : (s.chan c).Resting none none) :
    ∃ t, openBegin c sp kind s = .ok () t ∧ CanTransfer c t ∧ Spanning c (some kind) .commandSent t := by
  refine ⟨_, openBegin_free (h.channelFree hrest) h.noError (hrest.flags.flag_of_none kind), h.update, ?_⟩
  constructor <;> simp [hrest.dma, h.placed]
  case flags => exact hrest.flags.clear kind

theorem beginWire_issues {f : Fsm} (h : CanTransfer c s) (hspan : Spanning c (some kind) f s) :
    ∃ t, beginWire c o n kind s = .ok () t ∧ CanTransfer c t ∧ (t.chan c).InFlight (Dma.ofKind kind false) := by
  cases kind with
  | program =>
    refine ⟨_, wirePageProgram_ok (h.placed _) hspan.sel hspan.dma h.noError, h.update, ?_⟩
    simp only [State.setEnv_chan, State.setChan_chan]
    exact ⟨hspan.owner, hspan.sel, rfl, rfl, hspan.flags, rfl, rfl⟩
  | read =>
    refine ⟨_, wirePageRead_ok (h.placed _) hspan.sel hspan.dma h.noError, h.update, ?_⟩
    simp only [State.setEnv_chan, State.setChan_chan]
    exact ⟨hspan.owner, hspan.sel, rfl, rfl, hspan.flags, rfl, rfl⟩

/-- On a resting channel a begin operation is accepted, and its DMA is in flight (R182 to R184). -/
theorem beginInstr_accepted (h : CanTransfer c s) (hrest : (s.chan c).Resting none none) (hn : n ≤ Config.readExtra) :
    ∃ t, exec (beginInstr c sp o n kind) s = .next t ∧ t.ret = .returned .unit ∧ CanTransfer c t ∧
      (t.chan c).InFlight (Dma.ofKind kind false) := by
  obtain ⟨t, hopen, ht, hspan⟩ := openBegin_opens (sp := sp) (kind := kind) h hrest
  obtain ⟨u, hwire, hu, hfly⟩ := beginWire_issues (o := o) (n := n) ht hspan
  refine ⟨u.returnValue .unit, ?_, rfl, hu.returnValue _, by simpa using hfly⟩
  simp [exec_beginInstr h hn, hopen, hwire]

/-- A held lock refuses the begin, whatever its flag says: a cleared flag gives the same answer. -/
theorem openBegin_held (ha : s.aborted = false) (hattached : (s.env c).attached = true)
    (hl : (s.chan c).lockOwner ≠ none) : openBegin c sp kind s = .raise .errBusy (.channel c) s := by
  rw [openBegin, unlessAborted_clear _ ha, busLock_held hl]
  simp [hattached]

/-- While a DMA is in flight, performed or not, a begin operation is refused (R182, R192). -/
theorem beginInstr_refused {d : Dma} (h : CanTransfer c s) (hfly : (s.chan c).InFlight d)
    (hn : n ≤ Config.readExtra) :
    exec (beginInstr c sp o n kind) s = .next (s.takeException .errBusy (.channel c)) := by
  simp [exec_beginInstr h hn, openBegin_held h.unmarked h.attached hfly.owner]

theorem dmaPerform_transfer (h : CanTransfer c s) (hfly : (s.chan c).InFlight (Dma.ofKind kind false)) :
    CanTransfer c (dmaPerform c s) ∧ ((dmaPerform c s).chan c).InFlight (Dma.ofKind kind true) := by
  cases kind with
  | program =>
    rw [dmaPerform_program h.unmarked h.noError hfly.dma]
    refine ⟨h.update, ?_⟩
    simp only [State.setEnv_chan, State.setChan_chan]
    exact ⟨hfly.owner, hfly.sel, hfly.fsm, rfl, hfly.flags, rfl, rfl⟩
  | read =>
    rw [dmaPerform_read h.unmarked h.noError hfly.dma]
    refine ⟨h.update, ?_⟩
    simp only [State.setEnv_chan, State.setChan_chan]
    exact ⟨hfly.owner, hfly.sel, hfly.fsm, rfl, hfly.flags, rfl, rfl⟩

theorem dmaComplete_transfer (h : CanTransfer c s) (hfly : (s.chan c).InFlight (Dma.ofKind kind true)) :
    CanTransfer c (dmaComplete c s) ∧ ((dmaComplete c s).chan c).Resting none none := by
  have hflags := hfly.flags.set
  rw [dmaComplete_performed h.unmarked h.noError hfly.dma rfl hfly.sel hfly.owner]
  simp only [State.setEnv_chan, State.setChan_chan]
  cases kind with
  | program => exact ⟨h.update rfl rfl rfl, rfl, rfl, rfl, rfl, hflags⟩
  | read => exact ⟨h.update rfl rfl rfl, rfl, rfl, rfl, rfl, hflags⟩

end

/-- Settles O38: the first begin's DMA is in flight until it completes, and then the channel rests as at the start. -/
theorem doubleBeginIsRejected : Obligations.DoubleBeginIsRejected := by
  intro c sp sq o p n m s hfree hb hprogram hread hn hm hwbuf hrbuf first hfirst
  obtain ⟨kind, rfl⟩ := exists_beginInstr hfirst
  obtain ⟨t, hexec, hret, ht, hfly⟩ := beginInstr_accepted (sp := sp) (o := o) (kind := kind)
    (.of_channelFree hfree hb hwbuf hrbuf) (.of_channelFree hfree hprogram hread) hn
  obtain ⟨hperformed, hperformedFly⟩ := dmaPerform_transfer ht hfly
  obtain ⟨hcompleted, hrest⟩ := dmaComplete_transfer hperformed hperformedFly
  refine ⟨t, hexec, hret, fun second hsecond => ?_⟩
  obtain ⟨kind', rfl⟩ := exists_beginInstr hsecond
  obtain ⟨u, hagain, hagainRet, -, -⟩ := beginInstr_accepted (sp := sq) (o := p) (kind := kind') hcompleted hrest hm
  exact ⟨beginInstr_refused ht hfly hm, beginInstr_refused hperformed hperformedFly hm, u, hagain, hagainRet⟩

end Sys2Proof.Machine

/-! ## What an operation can do (R120 to R132, R140 to R190)

The lines of an operation touch their own channel only, and there nothing but the parts that a bus transaction is made
of; what the card holds stays inside its space (`Lines`). A begin operation, `DECODE_GEOMETRY` and
`REGISTER_INT_HANDLER` write one more field of the channel (`Instr.write`). `exec_ends` says so once of all operations,
and which of their ends set the fatal mark; the frames of the statements follow from it. -/

namespace Sys2Proof.Machine

open Sys2Proof.Safety

/-! ### Memories inside their spaces -/

/-- In canonical form and inside the space (R40). -/
def Memory.Legal (sp : Space) (m : List Host.Cell) : Prop := Memory.wf sp m = true ∧ Within sp m

theorem Memory.Legal.nil (sp : Space) : Memory.Legal sp [] := ⟨rfl, by simp [Within]⟩

theorem Memory.Legal.write {sp : Space} {m : List Host.Cell} {a : Nat} (h : Memory.Legal sp m)
    (ha : a < Memory.size sp) (v : Byte) : Memory.Legal sp (Memory.write sp m a v) := by
  refine ⟨Memory.wf_write h.1, fun cell hcell => ?_⟩
  obtain rfl | hold := Memory.mem_write hcell
  · exact ha
  · exact h.2 cell hold

theorem Memory.Legal.writeBytes {sp : Space} {m : List Host.Cell} {a : Nat} {vs : List Byte} (h : Memory.Legal sp m)
    (ha : ∀ k < vs.length, a + k < Memory.size sp) : Memory.Legal sp (Memory.writeBytes sp m a vs) := by
  induction vs generalizing a with
  | nil => exact h
  | cons v vs ih =>
    have hrest : ∀ k < vs.length, a + 1 + k < Memory.size sp := fun k hk => by
      have := ha (k + 1) (by simpa using hk)
      omega
    exact (ih hrest).write (ha 0 (by simp)) v

theorem Memory.Legal.writeEach {sp : Space} {m : List Host.Cell} {f : Nat → Byte} {as : List Nat}
    (h : Memory.Legal sp m) (ha : ∀ a ∈ as, a < Memory.size sp) : Memory.Legal sp (Memory.writeEach sp f as m) := by
  induction as with
  | nil => exact h
  | cons a as ih => exact (ih fun b hb => ha b (List.mem_cons_of_mem a hb)).write (ha a List.mem_cons_self) _

theorem cmdOffset_lt (cmd : List Byte) : cmdOffset cmd < Config.cardLen := (addrOf (cmd.drop 1)).isLt

/-- Page data stays in one page, and so on the card (R78). -/
theorem Memory.Legal.storePage {f : Nat → Byte} {m : List Host.Cell} {o pos : Nat} {bs : List Byte}
    (h : Memory.Legal .card m) (ho : o < Config.cardLen) (hp : bs.length ≤ 128 - pos) :
    Memory.Legal .card (storePage f m o pos bs) := by
  unfold Sys2Proof.Machine.storePage
  simp only [Config.cardLen] at ho
  split
  · exact h.writeBytes fun k hk => by simp only [Memory.size, Config.cardLen]; omega
  · refine h.writeBytes fun k hk => ?_
    simp only [List.length_map, List.length_range] at hk
    simp only [Memory.size, Config.cardLen]
    omega

theorem Env.stray_legal {e : Env} (c : Channel) (h : Memory.Legal .card e.card.storage) :
    Memory.Legal .card (e.stray c).card.storage := by
  unfold Env.stray
  split
  · exact Memory.Legal.nil _
  · exact h

theorem Env.accept_legal {e : Env} {c : Channel} {bs : List Byte} (h : Memory.Legal .card e.card.storage) :
    Memory.Legal .card (e.accept c bs).card.storage := by
  simp only [Env.accept]
  split
  · refine h.storePage (cmdOffset_lt _) ?_
    simp only [dataPart, List.length_take]
    omega
  · exact h

theorem Env.receive_legal {e : Env} (c : Channel) (bs : List Byte) (h : Memory.Legal .card e.card.storage) :
    Memory.Legal .card (e.receive c bs).card.storage := Env.stray_legal c (Env.accept_legal h)

theorem Env.afterSend_legal {e : Env} (c : Channel) (n : Nat) (h : Memory.Legal .card e.card.storage) :
    Memory.Legal .card (e.afterSend c n).card.storage := Env.stray_legal c (e := e.send n) h

/-! ### What the lines of an operation change -/

/-- What the channel holds besides the parts of a bus transaction: lock, selection, state machine, DMA record, trace. -/
def Chan.offBus (x : Chan) : Chan := { x with lockOwner := none, sel := none, fsm := .idle, dma := none, trace := [] }

section
variable {x y : Chan}

theorem Chan.geom_of_offBus (h : y.offBus = x.offBus) : y.geom = x.geom := (congrArg Chan.geom h :)
theorem Chan.intHandler_of_offBus (h : y.offBus = x.offBus) : y.intHandler = x.intHandler :=
  (congrArg Chan.intHandler h :)
theorem Chan.programDone_of_offBus (h : y.offBus = x.offBus) : y.programDone = x.programDone :=
  (congrArg Chan.programDone h :)
theorem Chan.readDone_of_offBus (h : y.offBus = x.offBus) : y.readDone = x.readDone := (congrArg Chan.readDone h :)
theorem Chan.wbuf_of_offBus (h : y.offBus = x.offBus) : y.wbuf = x.wbuf := (congrArg Chan.wbuf h :)
theorem Chan.rbuf_of_offBus (h : y.offBus = x.offBus) : y.rbuf = x.rbuf := (congrArg Chan.rbuf h :)
theorem Chan.wbufRaced_of_offBus (h : y.offBus = x.offBus) : y.wbufRaced = x.wbufRaced := (congrArg Chan.wbufRaced h :)
theorem Chan.rbufRaced_of_offBus (h : y.offBus = x.offBus) : y.rbufRaced = x.rbufRaced := (congrArg Chan.rbufRaced h :)

end

/-- What lines of operations can turn a state into, short of the bus error. -/
structure Lines (c : Channel) (s t : State) : Prop where
  onlyOn : OnlyOn c s t
  mark : t.aborted = s.aborted
  offBus : (t.chan c).offBus = (s.chan c).offBus
  dma : (s.chan c).dma ≠ none → (t.chan c).dma = (s.chan c).dma
  storage : Memory.Legal .card (s.env c).card.storage → Memory.Legal .card (t.env c).card.storage

theorem Lines.refl (c : Channel) (s : State) : Lines c s s := ⟨OnlyOn.rfl' c s, rfl, rfl, fun _ => rfl, id⟩

theorem Lines.setChan {c : Channel} {s t : State} (h : Lines c s t) (x : Chan)
    (hx : x.offBus = (t.chan c).offBus := by rfl)
    (hd : (t.chan c).dma ≠ none → x.dma = (t.chan c).dma := by intro _; rfl) : Lines c s (t.setChan c x) where
  onlyOn := h.onlyOn.setChan x
  mark := by simpa using h.mark
  offBus := by simpa using hx.trans h.offBus
  dma hs := by
    have ht := h.dma hs
    simpa using (hd (ht ▸ hs)).trans ht
  storage hs := by simpa using h.storage hs

theorem Lines.setEnv {c : Channel} {s t : State} (h : Lines c s t) (e : Env)
    (he : Memory.Legal .card (t.env c).card.storage → Memory.Legal .card e.card.storage) :
    Lines c s (t.setEnv c e) where
  onlyOn := h.onlyOn.setEnv e
  mark := by simpa using h.mark
  offBus := by simpa using h.offBus
  dma hs := by simpa using h.dma hs
  storage hs := by simpa using he (h.storage hs)

theorem Lines.withRet {c : Channel} {s t : State} (h : Lines c s t) (r : Ret) : Lines c s (t.setRet r) where
  onlyOn := h.onlyOn.withRet r
  mark := h.mark
  offBus := by simpa using h.offBus
  dma hs := by simpa using h.dma hs
  storage hs := by simpa using h.storage hs

theorem Lines.emit {c : Channel} {s t : State} (h : Lines c s t) (ev : BusEvent) : Lines c s (t.emit c ev) :=
  h.setChan _

/-! ### The ends of a sequence of lines -/

/-- The lines end in a state with the property, or in the bus error's mark on one; and they raise `FATAL_BUS` only with
the mark set. -/
def Res.Ends {α : Type} (P : State → Prop) : Res α → Prop
  | .ok _ t => P t
  | .raise e i t => P t ∧ (e = .fatalBus → i = .nothing ∧ t.aborted = true) ∨
      e = .fatalBus ∧ i = .nothing ∧ ∃ u, P u ∧ t = u.abort

section
variable {α β : Type} {P Q : State → Prop} {s : State}

theorem Res.Ends.andThen {r : Res α} {k : α → State → Res β} (hr : r.Ends P) (hk : ∀ a t, P t → (k a t).Ends P) :
    (r.andThen k).Ends P := by
  cases r with
  | ok a t => exact hk a t hr
  | raise e i t => exact hr

theorem Res.Ends.unit {r : Res Unit} (hr : r.Ends P) : r.unit.Ends P := hr.andThen fun _ _ h => h

theorem Res.Ends.mono {r : Res α} (hr : r.Ends P) (h : ∀ t, P t → Q t) : r.Ends Q := by
  cases r with
  | ok a t => exact h t hr
  | raise e i t =>
    obtain ⟨ht, he⟩ | ⟨he, hi, u, hu, ht⟩ := hr
    · exact .inl ⟨h t ht, he⟩
    · exact .inr ⟨he, hi, u, h u hu, ht⟩

theorem Res.ends_raise {e : ResultCode} {i : Info} (hs : P s) (he : e ≠ .fatalBus) : (Res.raise e i s : Res α).Ends P :=
  .inl ⟨hs, fun h => absurd h he⟩

theorem Res.ends_unlessAborted {r : Res α} (hs : P s) (hr : r.Ends P) : (unlessAborted s r).Ends P := by
  unfold unlessAborted
  split
  · next ha => exact .inl ⟨hs, fun _ => ⟨rfl, ha⟩⟩
  · exact hr

theorem Res.ends_ifFit {ok : Bool} {r : Res α} (hs : P s) (hr : r.Ends P) : (ifFit ok s r).Ends P := by
  cases ok
  · exact Res.ends_raise hs (by decide)
  · exact hr

end

section
variable {α : Type} {c : Channel} {s₀ s : State}

theorem onBus_lines {k : State → Res α} (h : Lines c s₀ s)
    (hk : ∀ t, Lines c s₀ t → t.chan c = s.chan c → (k t).Ends (Lines c s₀)) : (onBus c s k).Ends (Lines c s₀) := by
  obtain hr | ⟨b, hr⟩ := onBus_cases c s k
  · rw [hr]; exact .inr ⟨rfl, rfl, s, h, rfl⟩
  · rw [hr]; exact hk _ (h.setEnv _ id) (State.setEnv_chan ..)

theorem busLock_lines {slot : DeviceSlot} (h : Lines c s₀ s) : Lines c s₀ (busLock c slot s).2 := by
  unfold busLock
  split
  · exact (h.setChan _).emit _
  · exact h

theorem busUnlock_lines (h : Lines c s₀ s) : (busUnlock c s).Ends (Lines c s₀) := by
  unfold busUnlock
  split
  · exact (h.setChan _).emit _
  · exact Res.ends_raise h (by decide)

theorem busSelect_lines {slot : DeviceSlot} {sp : Speed} (h : Lines c s₀ s) :
    (busSelect c slot sp s).Ends (Lines c s₀) := by
  unfold busSelect
  split
  · exact onBus_lines h fun _ h _ => ((h.setChan _).emit _).setEnv _ (by simp)
  · exact Res.ends_raise h (by decide)

theorem busDeselect_lines (h : Lines c s₀ s) : (busDeselect c s).Ends (Lines c s₀) := by
  unfold busDeselect
  split
  · exact onBus_lines h fun _ h _ => ((h.setChan _).emit _).setEnv _ (by simp)
  · exact Res.ends_raise h (by decide)

theorem busImmWrite_lines {bytes : List Byte} (h : Lines c s₀ s) : (busImmWrite c bytes s).Ends (Lines c s₀) := by
  unfold busImmWrite
  split
  · exact onBus_lines h fun _ h _ => (h.emit _).setEnv _ fun hl => Env.receive_legal c bytes (by simpa using hl)
  · exact Res.ends_raise h (by decide)

theorem busImmRead_lines {n : Nat} (h : Lines c s₀ s) : (busImmRead c n s).Ends (Lines c s₀) := by
  unfold busImmRead
  split
  · exact onBus_lines h fun _ h _ => (h.emit _).setEnv _ fun hl => Env.afterSend_legal c n (by simpa using hl)
  · exact Res.ends_raise h (by decide)

/-- The only line that writes a DMA record finds none there (R127). -/
theorem busDmaIssue_lines {kind : DmaKind} {dir : DmaDir} {len : Nat} (h : Lines c s₀ s) :
    (busDmaIssue c kind dir len s).Ends (Lines c s₀) := by
  unfold busDmaIssue
  split
  · next hpre =>
    obtain ⟨-, -, -, hnone, -⟩ := hpre
    exact onBus_lines h fun _ h hchan => (h.setChan _ (by rfl) fun hd => absurd (hchan ▸ hnone) hd).emit _
  · exact Res.ends_raise h (by decide)

/-! ### The wire sequences and the spans -/

theorem toAwaitingDma_lines (h : Lines c s₀ s) : Lines c s₀ (toAwaitingDma c s) := h.setChan _

theorem wireIdentify_lines (h : Lines c s₀ s) : (wireIdentify c s).Ends (Lines c s₀) :=
  (busImmWrite_lines h).andThen fun _ _ h => (busImmRead_lines h).andThen fun _ _ h => h

theorem wireStatus_lines (h : Lines c s₀ s) : (wireStatus c s).Ends (Lines c s₀) :=
  (busImmWrite_lines h).andThen fun _ _ h => (busImmRead_lines h).andThen fun _ _ h => h

theorem wirePageProgram_lines {o : Word} (h : Lines c s₀ s) : (wirePageProgram c o s).Ends (Lines c s₀) :=
  (busImmWrite_lines h).andThen fun _ _ h => busDmaIssue_lines (toAwaitingDma_lines h)

theorem wirePageRead_lines {o : Word} {n : Nat} (h : Lines c s₀ s) : (wirePageRead c o n s).Ends (Lines c s₀) :=
  (busImmWrite_lines h).andThen fun _ _ h =>
    (busImmWrite_lines (toAwaitingDma_lines h)).andThen fun _ _ h => busDmaIssue_lines h

theorem openSpan_lines {sp : Speed} (h : Lines c s₀ s) : (openSpan c sp s).Ends (Lines c s₀) := by
  unfold openSpan
  refine Res.ends_unlessAborted h ?_
  split
  · exact Res.ends_raise h (by decide)
  by_cases hl : (s.chan c).lockOwner = none
  · rw [busLock_free hl]; exact busSelect_lines (h.setChan _)
  · rw [busLock_held hl]; exact Res.ends_raise h (by decide)

theorem closeSpan_lines (h : Lines c s₀ s) : (closeSpan c s).Ends (Lines c s₀) :=
  (busDeselect_lines h).andThen fun _ _ h => busUnlock_lines h

theorem inSpan_lines {sp : Speed} {body : State → Res α} (h : Lines c s₀ s)
    (hb : ∀ t, Lines c s₀ t → (body t).Ends (Lines c s₀)) : (inSpan c sp s body).Ends (Lines c s₀) :=
  (openSpan_lines h).andThen fun _ _ h => (hb _ h).andThen fun _ _ h => (closeSpan_lines h).andThen fun _ _ h => h

end

/-! ### The four operations that write a field of the channel -/

/-- What an operation writes on its channel besides its lines (R129, R166, R182). -/
def Instr.write (i : Instr) (x : Chan) : Chan :=
  match i with
  | .beginProgram _ _ _ => x.setFlag .program false
  | .beginRead _ _ _ _ => x.setFlag .read false
  | .decodeGeometry _ id => { x with geom := geoDecode id }
  | .registerIntHandler _ h => { x with intHandler := some h }
  | _ => x

/-- `t` is what an operation can turn `s` into, short of the bus error and of what the caller is told. -/
def Wrote (i : Instr) (s t : State) : Prop :=
  Lines i.channel s t ∨ Lines i.channel (s.setChan i.channel (Instr.write i (s.chan i.channel))) t

theorem Wrote.refl (i : Instr) (s : State) : Wrote i s s := .inl (Lines.refl _ s)

theorem Wrote.onlyOn {i : Instr} {s t : State} (h : Wrote i s t) : OnlyOn i.channel s t :=
  h.elim (·.onlyOn) fun h => ((OnlyOn.rfl' _ s).setChan _).trans h.onlyOn

theorem Wrote.mark {i : Instr} {s t : State} (h : Wrote i s t) : t.aborted = s.aborted :=
  h.elim (·.mark) fun h => by simpa using h.mark

/-- The flag is cleared between the lock and `SELECT` (R182). -/
theorem openBegin_wrote {c : Channel} {sp : Speed} {kind : DmaKind} {s : State} :
    (openBegin c sp kind s).Ends fun t =>
      Lines c s t ∨ Lines c (s.setChan c ((s.chan c).setFlag kind false)) t := by
  have hs := Lines.refl c s
  rw [openBegin]
  refine Res.ends_unlessAborted (.inl hs) ?_
  split
  · exact Res.ends_raise (.inl hs) (by decide)
  split
  · exact Res.ends_raise (.inl hs) (by decide)
  by_cases hlock : (s.chan c).lockOwner = none
  · rw [busLock_free hlock]
    refine Res.Ends.mono (busSelect_lines (s₀ := s.setChan c ((s.chan c).setFlag kind false)) ?_) fun _ => .inr
    have hlines := (Lines.refl c (s.setChan c ((s.chan c).setFlag kind false))).setChan
      (Chan.setFlag { s.chan c with lockOwner := some .card, trace := (s.chan c).trace ++ [.lock .card] } kind false)
      (by cases kind <;> simp [Chan.setFlag, Chan.offBus]) (by simp)
    simpa using hlines
  · rw [busLock_held hlock]
    exact Res.ends_raise (.inl hs) (by decide)

/-- A begin operation, from its wire sequence. -/
theorem begin_wrote {c : Channel} {sp : Speed} {kind : DmaKind} {s : State} {wire : State → Res Unit}
    (hw : ∀ s₀ t, Lines c s₀ t → (wire t).Ends (Lines c s₀)) :
    ((openBegin c sp kind s).andThen fun _ t => wire t).Ends fun t =>
      Lines c s t ∨ Lines c (s.setChan c ((s.chan c).setFlag kind false)) t :=
  openBegin_wrote.andThen fun _ t h => h.elim (fun h => (hw s t h).mono fun _ => .inl)
    fun h => (hw _ t h).mono fun _ => .inr

/-! ### The answer of an operation -/

/-- What is true of the next state `t` that an operation answers in `s`. -/
structure Answers (i : Instr) (s t : State) : Prop where
  wrote : ∃ u r, Wrote i s u ∧ (t = u.setRet r ∨ t = u.abort.setRet r)
  refused : ∀ e info, t.ret = .raised e info → e.refuses = true → t = s.takeException e info
  fatal : s.aborted = false → (t.aborted = true ↔ t.ret = .raised .fatalBus .nothing)

/-- An end that no raise brought about. -/
theorem Wrote.answers {i : Instr} {s t : State} {r : Ret} (h : Wrote i s t) (hr : ∀ e info, r ≠ .raised e info) :
    Answers i s (t.setRet r) where
  wrote := ⟨t, r, h, .inl rfl⟩
  refused e info he := absurd he (hr e info)
  fatal ha := by simp [h.mark, ha, hr]

/-- An end by a raise. -/
theorem raiseEnd_answers {α : Type} {i : Instr} {s t : State} {e : ResultCode} {info : Info}
    (hr : (Res.raise e info t : Res α).Ends (Wrote i s)) : Answers i s (raiseEnd s e info t) := by
  cases he : e.refuses with
  | true =>
    rw [raiseEnd_refused he]
    have hfatal : e ≠ .fatalBus := by rintro rfl; cases he
    exact ⟨⟨s, _, Wrote.refl i s, .inl rfl⟩, fun e' info' h _ => by cases h; rfl, fun ha => by simp [ha, hfatal]⟩
  | false =>
    have hend : raiseEnd s e info t = t.takeException e info := by simp [raiseEnd, he]
    rw [hend]
    refine ⟨?_, fun e' info' h he' => ?_, fun ha => ?_⟩
    · obtain ⟨ht, -⟩ | ⟨-, -, u, hu, rfl⟩ := hr
      · exact ⟨t, _, ht, .inl rfl⟩
      · exact ⟨u, _, hu, .inr rfl⟩
    · cases h
      simp [he] at he'
    · obtain ⟨ht, hfatal⟩ | ⟨rfl, rfl, u, hu, rfl⟩ := hr
      · have hclear : t.aborted = false := ht.mark.trans ha
        have hne : e ≠ .fatalBus := fun h => by simp [hclear] at hfatal; exact hfatal h
        simp [hclear, hne]
      · simp

theorem finish_answers {i : Instr} {s : State} {r : Res Value} (hr : r.Ends (Wrote i s)) :
    ∃ t, finish s r = .next t ∧ Answers i s t := by
  cases r with
  | ok v t => exact ⟨_, rfl, Wrote.answers hr fun _ _ h => by cases h⟩
  | raise e info t => exact ⟨_, rfl, raiseEnd_answers hr⟩

/-- The end of an operation whose lines write no field of their own. -/
theorem finish_lines_answers {i : Instr} {s : State} {r : Res Value} (hr : r.Ends (Lines i.channel s)) :
    ∃ t, finish s r = .next t ∧ Answers i s t := finish_answers (hr.mono fun _ => .inl)

/-- An operation that answers at once, without a line on the bus. -/
theorem fatal_or_answers {i : Instr} {s t : State} (ht : Answers i s t) :
    ∃ u, (Host.Outcome.next (φ := Fault) (ρ := Refusal)
      (if s.aborted then s.takeException .fatalBus .nothing else t)) = .next u ∧ Answers i s u := by
  refine ⟨_, rfl, ?_⟩
  split
  · next ha =>
    refine ⟨⟨s, _, Wrote.refl i s, .inl rfl⟩, fun e _ h he => ?_, fun hc => by simp [hc] at ha⟩
    cases h
    cases he
  · exact ht

theorem execJoin_answers (c : Channel) (s : State) : ∃ t, execJoin c s = .next t ∧ Answers (.join c) s t := by
  refine fatal_or_answers (t := if (s.chan c).bothDone then s.returnValue .unit else s.await) ?_
  split <;> exact (Wrote.refl _ s).answers fun _ _ h => by cases h

theorem geometryRet_not_fatal (id : IdWord) (info : Info) : geometryRet id ≠ .raised .fatalBus info := by
  unfold geometryRet
  split <;> simp

theorem geometryRet_not_refused {id : IdWord} {e : ResultCode} {info : Info} (h : geometryRet id = .raised e info) :
    e.refuses = false := by
  unfold geometryRet at h
  split at h <;> cases h
  rfl

theorem execDecodeGeometry_answers (c : Channel) (id : IdWord) (s : State) :
    ∃ t, execDecodeGeometry c id s = .next t ∧ Answers (.decodeGeometry c id) s t := by
  refine fatal_or_answers (t := (s.setChan c { s.chan c with geom := geoDecode id }).setRet (geometryRet id)) ?_
  refine ⟨⟨_, _, .inr (Lines.refl _ _), .inl rfl⟩, fun e info h he => ?_, fun ha => ?_⟩
  · rw [geometryRet_not_refused h] at he
    cases he
  · simp [ha, geometryRet_not_fatal]

theorem execWaitReady_answers (c : Channel) (sp : Speed) (s : State) :
    ∃ t, execWaitReady c sp s = .next t ∧ Answers (.waitReady c sp) s t := by
  have hpoll : (readStatusOnce c sp s).Ends (Wrote (.waitReady c sp) s) :=
    (inSpan_lines (Lines.refl c s) fun _ => wireStatus_lines).mono fun _ => .inl
  refine ⟨_, rfl, ?_⟩
  cases hr : readStatusOnce c sp s with
  | raise e info t =>
    rw [hr] at hpoll
    exact raiseEnd_answers hpoll
  | ok st t =>
    rw [hr] at hpoll
    show Answers _ s (if statusReady st then t.returnValue .unit else t.await)
    split <;> exact Wrote.answers hpoll fun _ _ h => by cases h

/-- Every operation answers a next state, which only the writes named here part from the state it began in. -/
theorem exec_answers (i : Instr) (s : State) : ∃ t, exec i s = .next t ∧ Answers i s t := by
  have hs := Lines.refl i.channel s
  cases i with
  | identify c =>
    exact finish_lines_answers (Res.ends_unlessAborted hs ((wireIdentify_lines hs).andThen fun _ _ h => h))
  | status c => exact finish_lines_answers (Res.ends_unlessAborted hs ((wireStatus_lines hs).andThen fun _ _ h => h))
  | clearStatusCmd c => exact finish_lines_answers (Res.ends_unlessAborted hs (busImmWrite_lines hs).unit)
  | enableInt c en => exact finish_lines_answers (Res.ends_unlessAborted hs (busImmWrite_lines hs).unit)
  | pageProgram c o =>
    exact finish_lines_answers (Res.ends_ifFit hs (Res.ends_unlessAborted hs (wirePageProgram_lines hs).unit))
  | pageRead c o n =>
    exact finish_lines_answers (Res.ends_ifFit hs (Res.ends_unlessAborted hs (wirePageRead_lines hs).unit))
  | getId c sp => exact finish_lines_answers ((inSpan_lines hs fun _ => wireIdentify_lines).andThen fun _ _ h => h)
  | readStatus c sp => exact finish_lines_answers ((inSpan_lines hs fun _ => wireStatus_lines).andThen fun _ _ h => h)
  | clearStatus c sp => exact finish_lines_answers (inSpan_lines hs fun _ => busImmWrite_lines).unit
  | enableInterrupt c sp en => exact finish_lines_answers (inSpan_lines hs fun _ => busImmWrite_lines).unit
  | beginProgram c sp o =>
    exact finish_answers (Res.ends_ifFit (Wrote.refl _ s) (begin_wrote fun _ _ => wirePageProgram_lines).unit)
  | beginRead c sp o n =>
    exact finish_answers (Res.ends_ifFit (Wrote.refl _ s) (begin_wrote fun _ _ => wirePageRead_lines).unit)
  | join c => exact execJoin_answers c s
  | waitReady c sp => exact execWaitReady_answers c sp s
  | decodeGeometry c id => exact execDecodeGeometry_answers c id s
  | lock c slot =>
    exact finish_lines_answers (Res.ends_unlessAborted hs (busLock_lines (s₀ := s) (s := s) (c := c) hs))
  | unlock c => exact finish_lines_answers (Res.ends_unlessAborted hs (busUnlock_lines hs).unit)
  | select c slot sp => exact finish_lines_answers (Res.ends_unlessAborted hs (busSelect_lines hs).unit)
  | deselect c => exact finish_lines_answers (Res.ends_unlessAborted hs (busDeselect_lines hs).unit)
  | immWrite c bytes => exact finish_lines_answers (Res.ends_unlessAborted hs (busImmWrite_lines hs).unit)
  | immRead c n =>
    exact finish_lines_answers (Res.ends_unlessAborted hs ((busImmRead_lines hs).andThen fun _ _ h => h))
  | dmaTransfer c kind dir len => exact finish_lines_answers (Res.ends_unlessAborted hs (busDmaIssue_lines hs).unit)
  | registerIntHandler c h =>
    exact finish_answers (Res.ends_unlessAborted (Wrote.refl _ s) (.inr (Lines.refl _ _)))
  | isAttached c => exact finish_lines_answers (r := .ok (.bool (s.env c).attached) s) hs

theorem exec_inv {i : Instr} {s t : State} (h : exec i s = .next t) : Answers i s t := by
  obtain ⟨u, hu, ha⟩ := exec_answers i s
  rw [hu] at h
  cases h
  exact ha

end Sys2Proof.Machine

/-! ## What a step can do (R9, R36, R128, R217)

`StepOf` lists every way a step answers a next state. Of each way three things are said once: what it leaves of a
channel's flags, geometry, handler and DMA record (`Chan.Steady`), that the memories stay inside their spaces
(`MemOk`), and that it changes nothing once the fatal mark is set. -/

namespace Sys2Proof.Machine

open Sys2Proof.Safety

/-! ### The ways a step answers -/

/-- The state in which the agent that steps next finds the machine: its name is off the schedule. -/
def State.dispatched (s : State) : State := s.setAgenda s.agenda.tail

@[simp] theorem State.dispatched_chan (s : State) (c : Channel) : s.dispatched.chan c = s.chan c :=
  State.setAgenda_chan ..
@[simp] theorem State.dispatched_env (s : State) (c : Channel) : s.dispatched.env c = s.env c := State.setAgenda_env ..
@[simp] theorem State.dispatched_aborted (s : State) : s.dispatched.aborted = s.aborted := rfl
@[simp] theorem State.dispatched_program (s : State) : s.dispatched.program = s.program := rfl

theorem State.dispatched_of_nil {s : State} (h : s.agenda = []) : s.dispatched = s := by
  cases s
  simp_all [State.dispatched, State.setAgenda]

theorem State.dispatched_of_cons {s : State} {a : AgentStep} {g : List AgentStep} (h : s.agenda = a :: g) :
    s.dispatched = s.setAgenda g := by simp [State.dispatched, h]

/-- What a step from `s` can be. -/
inductive StepOf (s : State) : State → Prop
  | idle : StepOf s s.dispatched
  | access (a : Access) (u : State) (h : runAccess a s.dispatched = .next u) : StepOf s u.retire
  | call (i : Instr) (u : State) (hnext : MainFlowNext s) (hcall : NextCall i s)
      (h : exec i s.dispatched = .next u) : StepOf s u.retireUnlessWaiting
  | bench (i : Instr) (u : State) (hmain : i.mainFlow = false) (h : exec i s.dispatched = .next u) : StepOf s u
  | dmaPerform (c : Channel) : StepOf s (dmaPerform c s.dispatched)
  | dmaComplete (c : Channel) (h : s.agenda.head? = some (.dmaComplete c)) : StepOf s (dmaComplete c s.dispatched)
  | cardInterrupt (c : Channel) : StepOf s (cardInterrupt c s.dispatched)
  | environment (c : Channel) (e : Env) (h : e.card = (s.env c).card) : StepOf s (s.dispatched.setEnv c e)

theorem mainStep_stepOf {s t : State} (hnext : MainFlowNext s) (h : mainStep s.dispatched = .next t) : StepOf s t := by
  unfold mainStep at h
  split at h
  · cases h; exact .idle
  · split at h <;> cases h
    next hu => exact .access _ _ hu
  · next space words rest hprogram =>
    split at h
    · cases h
    · next i hi =>
      split at h
      · split at h <;> cases h
        next hu => exact .call i _ hnext ⟨space, words, rest, hprogram, hi⟩ hu
      · cases h

theorem agentStep_stepOf {s t : State} {a : AgentStep} {g : List AgentStep} (hg : s.agenda = a :: g)
    (h : agentStep a s.dispatched = .next t) : StepOf s t := by
  have hhead : s.agenda.head? = some a := by simp [hg]
  cases a with
  | mainFlow => exact mainStep_stepOf (.inr hhead) h
  | dmaPerform c => cases h; exact .dmaPerform c
  | dmaComplete c => rw [eventStep_inv h]; exact .dmaComplete c hhead
  | cardInterrupt c => rw [eventStep_inv h]; exact .cardInterrupt c
  | attach c b => cases h; exact .environment c _ (by simp)
  | armBusError c k => cases h; exact .environment c _ (by simp)
  | bench space words =>
    simp only [agentStep, benchStep] at h
    split at h
    · cases h
    · next i _ =>
      split at h
      · cases h
      · next hmain => exact .bench i t (by simpa using hmain) h

theorem step_stepOf {s t : State} (h : step s = .next t) : StepOf s t := by
  unfold step at h
  split at h
  · next hg => exact mainStep_stepOf (.inl hg) (by rwa [State.dispatched_of_nil hg])
  · next a g hg => exact agentStep_stepOf hg (by rwa [State.dispatched_of_cons hg])

/-! ### Event bodies -/

theorem State.runBody_of_ends {P : State → Prop} {r : Res Unit} (hr : r.Ends P) :
    ∃ u, P u ∧ (State.runBody r = u ∨ State.runBody r = u.abort) := by
  cases r with
  | ok a t => exact ⟨t, hr, .inl rfl⟩
  | raise e i t =>
    obtain ⟨ht, -⟩ | ⟨-, -, u, hu, rfl⟩ := hr
    · exact ⟨t, ht, .inl rfl⟩
    · exact ⟨u, hu, .inr rfl⟩

theorem clearStatusHandler_lines {c : Channel} {sp : Speed} {s : State} :
    (clearStatusHandler c sp s).Ends (Lines c s) := by
  have hl := busLock_lines (slot := .card) (Lines.refl c s)
  unfold clearStatusHandler
  split
  · next e => rw [e] at hl; exact hl
  · next e =>
    rw [e] at hl
    exact (busSelect_lines hl).andThen fun _ _ h => (busImmWrite_lines h).andThen fun _ _ h => closeSpan_lines h

theorem cardInterruptBody_lines {c : Channel} {s : State} : (cardInterruptBody c s).Ends (Lines c s) := by
  unfold cardInterruptBody
  split
  · exact Lines.refl c s
  · split
    · exact Lines.refl c s
    · exact clearStatusHandler_lines

/-- The handler's lines are lines of operations. -/
theorem cardInterrupt_lines (c : Channel) (s : State) :
    ∃ u, Lines c s u ∧ (cardInterrupt c s = u ∨ cardInterrupt c s = u.abort) :=
  State.runBody_of_ends cardInterruptBody_lines

/-- The state in which a completion callback comes to its `DESELECT`: races settled, flag set, record cleared (R187). -/
def callbackStart (c : Channel) (kind : DmaKind) (s : State) : State :=
  let t := settleRaces c kind s
  t.setChan c { (t.chan c).setFlag kind true with
    dma := none, trace := (t.chan c).trace ++ [.dmaComplete kind] }

theorem callback_eq (c : Channel) (kind : DmaKind) (s : State) :
    callback c kind s = closeSpan c (callbackStart c kind s) := by
  simp [callback, closeSpan, callbackStart]

theorem dmaComplete_enabled {c : Channel} {s : State} {d : Dma} (ha : s.aborted = false)
    (hd : (s.chan c).dma = some d) (hp : d.performed = true) :
    dmaComplete c s = State.runBody (closeSpan c (callbackStart c d.kind s)) := by
  simp [dmaComplete, dmaCompleteBody, hd, ha, hp, callback_eq]

theorem dmaComplete_disabled {c : Channel} {s : State}
    (h : s.aborted = true ∨ (s.chan c).dma = none ∨ ∃ d, (s.chan c).dma = some d ∧ d.performed = false) :
    dmaComplete c s = s := by
  obtain ha | hd | ⟨d, hd, hp⟩ := h
  · simp [dmaComplete, dmaCompleteBody_aborted ha]
  · simp [dmaComplete, dmaCompleteBody, hd]
  · simp [dmaComplete, dmaCompleteBody, hd, hp]

theorem dmaPerform_disabled {c : Channel} {s : State}
    (h : s.aborted = true ∨ (s.chan c).dma = none ∨ ∃ d, (s.chan c).dma = some d ∧ d.performed = true) :
    dmaPerform c s = s := by
  unfold dmaPerform
  split
  · rfl
  · next d hd =>
    have hguard : s.aborted = true ∨ d.performed = true := by simpa [hd] using h
    rw [if_pos (by simpa using hguard)]

theorem cardInterrupt_disabled {c : Channel} {s : State} (h : s.aborted = true ∨ (s.chan c).intHandler = none ∨
    (s.env c).card.intEnable = false ∨ (s.chan c).lockOwner ≠ none) : cardInterrupt c s = s := by
  unfold cardInterrupt cardInterruptBody
  split
  · rfl
  · next hoff =>
    split
    · rfl
    · next sp hh =>
      have hl : (s.chan c).lockOwner ≠ none := by
        simp only [not_or, Bool.not_eq_true, Bool.not_eq_false] at hoff
        simpa [hh, hoff.1, hoff.2] using h
      simp [clearStatusHandler, busLock_held hl]

/-- A completion changes nothing, or it is the callback of a performed DMA, which closes its span. -/
theorem dmaComplete_lines (c : Channel) (s : State) : dmaComplete c s = s ∨
    ∃ d, s.aborted = false ∧ (s.chan c).dma = some d ∧ d.performed = true ∧
      ∃ u, Lines c (callbackStart c d.kind s) u ∧ (dmaComplete c s = u ∨ dmaComplete c s = u.abort) := by
  cases ha : s.aborted with
  | true => exact .inl (dmaComplete_disabled (.inl ha))
  | false =>
    cases hd : (s.chan c).dma with
    | none => exact .inl (dmaComplete_disabled (.inr (.inl hd)))
    | some d =>
      cases hp : d.performed with
      | false => exact .inl (dmaComplete_disabled (.inr (.inr ⟨d, hd, hp⟩)))
      | true =>
        refine .inr ⟨d, rfl, rfl, hp, ?_⟩
        rw [dmaComplete_enabled ha hd hp]
        exact State.runBody_of_ends (closeSpan_lines (Lines.refl c _))

/-- A performance changes nothing but the mark, or it moves the data of a DMA that was issued. -/
theorem dmaPerform_moves (c : Channel) (s : State) : dmaPerform c s = s ∨ dmaPerform c s = s.abort ∨
    ∃ d b, (s.chan c).dma = some d ∧
      dmaPerform c s = markPerformed c (moveData c d.dir (s.setEnv c { s.env c with busErrorIn := b })) := by
  unfold dmaPerform
  split
  · exact .inl rfl
  · next d hd =>
    split
    · exact .inl rfl
    · obtain hr | ⟨b, hr⟩ := onBus_cases c s fun t => .ok () (markPerformed c (moveData c d.dir t))
      · exact .inr (.inl (by rw [hr]; rfl))
      · exact .inr (.inr ⟨d, b, hd, by rw [hr]; rfl⟩)

/-! ### The fatal mark freezes the block (R36) -/

theorem openSpan_aborted {c : Channel} {sp : Speed} {s : State} (ha : s.aborted = true) :
    openSpan c sp s = .raise .fatalBus .nothing s := unlessAborted_set _ ha

theorem inSpan_aborted {α : Type} {c : Channel} {sp : Speed} {s : State} {body : State → Res α}
    (ha : s.aborted = true) : inSpan c sp s body = .raise .fatalBus .nothing s := by
  simp [inSpan, openSpan_aborted ha]

theorem openBegin_aborted {c : Channel} {sp : Speed} {kind : DmaKind} {s : State} (ha : s.aborted = true) :
    openBegin c sp kind s = .raise .fatalBus .nothing s := unlessAborted_set _ ha

section
variable {s : State}

theorem finish_aborted (ha : s.aborted = true) (ok : Bool) (k : Res Value) :
    ∃ r, finish s (ifFit ok s (unlessAborted s k)) = .next (s.setRet r) := by
  cases ok
  · exact ⟨_, congrArg _ (raiseEnd_same ..)⟩
  · rw [unlessAborted_set k ha]
    exact ⟨_, congrArg _ (raiseEnd_same ..)⟩

theorem finish_fatal (s : State) :
    finish s (.raise .fatalBus .nothing s) = .next (s.takeException .fatalBus .nothing) :=
  congrArg _ (raiseEnd_same ..)

/-- Once the mark is set every operation tells its caller something and does nothing. -/
theorem exec_aborted (i : Instr) (ha : s.aborted = true) : ∃ r, exec i s = .next (s.setRet r) := by
  cases i with
  | identify c => exact finish_aborted ha true _
  | status c => exact finish_aborted ha true _
  | clearStatusCmd c => exact finish_aborted ha true _
  | enableInt c en => exact finish_aborted ha true _
  | pageProgram c o => exact finish_aborted ha _ _
  | pageRead c o n => exact finish_aborted ha _ _
  | getId c sp => exact ⟨_, by rw [exec, execGetId, inSpan_aborted ha]; exact finish_fatal s⟩
  | readStatus c sp => exact ⟨_, by rw [exec, execReadStatus, readStatusOnce, inSpan_aborted ha]; exact finish_fatal s⟩
  | clearStatus c sp => exact ⟨_, by rw [exec, execClearStatus, inSpan_aborted ha]; exact finish_fatal s⟩
  | enableInterrupt c sp en => exact ⟨_, by rw [exec, execEnableInterrupt, inSpan_aborted ha]; exact finish_fatal s⟩
  | beginProgram c sp o =>
    have h := finish_aborted ha ((s.env c).aligned .program) (.ok .unit s)
    simpa [exec, execBeginProgram, openBegin_aborted ha, unlessAborted_set _ ha] using h
  | beginRead c sp o n =>
    have h := finish_aborted ha (dummiesFit n && (s.env c).aligned .read) (.ok .unit s)
    simpa [exec, execBeginRead, openBegin_aborted ha, unlessAborted_set _ ha] using h
  | join c => exact ⟨_, by rw [exec, execJoin, if_pos ha]; rfl⟩
  | waitReady c sp => exact ⟨_, by rw [exec, execWaitReady, readStatusOnce, inSpan_aborted ha]; exact finish_fatal s⟩
  | decodeGeometry c id => exact ⟨_, by rw [exec, execDecodeGeometry, if_pos ha]; rfl⟩
  | lock c slot => exact finish_aborted ha true _
  | unlock c => exact finish_aborted ha true _
  | select c slot sp => exact finish_aborted ha true _
  | deselect c => exact finish_aborted ha true _
  | immWrite c bytes => exact finish_aborted ha true _
  | immRead c n => exact finish_aborted ha true _
  | dmaTransfer c kind dir len => exact finish_aborted ha true _
  | registerIntHandler c h => exact finish_aborted ha true _
  | isAttached c => exact ⟨_, rfl⟩

theorem runAccess_aborted (a : Access) (ha : s.aborted = true) :
    runAccess a s = .next (s.takeException .fatalBus .nothing) := if_pos ha

end

/-- Settles O54: each way a step answers leaves the block as it was, because what it begins with asks for the mark. -/
theorem theFatalMarkFreezesTheBlock : Obligations.TheFatalMarkFreezesTheBlock := by
  intro s t ha h
  have ha' : s.dispatched.aborted = true := ha
  cases step_stepOf h with
  | idle => exact ⟨ha, by simp [BlockKept]⟩
  | access a u hu =>
    rw [runAccess_aborted a ha'] at hu
    cases hu
    exact ⟨ha, by simp [BlockKept]⟩
  | call i u hnext hcall hu =>
    obtain ⟨r, hr⟩ := exec_aborted i ha'
    rw [hr] at hu
    cases hu
    exact ⟨by simpa using ha, by simp [BlockKept]⟩
  | bench i u hmain hu =>
    obtain ⟨r, hr⟩ := exec_aborted i ha'
    rw [hr] at hu
    cases hu
    exact ⟨ha, by simp [BlockKept]⟩
  | dmaPerform c => rw [dmaPerform_disabled (.inl ha')]; exact ⟨ha, by simp [BlockKept]⟩
  | dmaComplete c => rw [dmaComplete_disabled (.inl ha')]; exact ⟨ha, by simp [BlockKept]⟩
  | cardInterrupt c => rw [cardInterrupt_disabled (.inl ha')]; exact ⟨ha, by simp [BlockKept]⟩
  | environment c e => exact ⟨by simpa using ha, by simp [BlockKept]⟩

/-! ### The memories stay in canonical form and inside their spaces (R40) -/

/-- What `MemoryInv` says of one channel. -/
structure MemOk (x : Chan) (e : Env) : Prop where
  wbuf : Memory.Legal .wbuf x.wbuf
  rbuf : Memory.Legal .rbuf x.rbuf
  card : Memory.Legal .card e.card.storage
  wbufRaced : ∀ i ∈ x.wbufRaced, i < Config.writeBufLen
  rbufRaced : ∀ i ∈ x.rbufRaced, i < Config.readBufLen
  window : RacesInWindow x

theorem memoryInv_iff {s : State} : MemoryInv s ↔ ∀ c, MemOk (s.chan c) (s.env c) := by
  refine forall_congr' fun c => ⟨fun ⟨hmem, hw, hr, hwin⟩ => ⟨hmem .wbuf, hmem .rbuf, hmem .card, hw, hr, hwin⟩,
    fun h => ⟨fun sp => ?_, h.wbufRaced, h.rbufRaced, h.window⟩⟩
  cases sp with
  | wbuf => exact h.wbuf
  | rbuf => exact h.rbuf
  | card => exact h.card

theorem MemOk.congr {x y : Chan} {e f : Env} (h : MemOk x e) (hxy : y.offBus = x.offBus)
    (hef : Memory.Legal .card e.card.storage → Memory.Legal .card f.card.storage) : MemOk y f where
  wbuf := by rw [Chan.wbuf_of_offBus hxy]; exact h.wbuf
  rbuf := by rw [Chan.rbuf_of_offBus hxy]; exact h.rbuf
  card := hef h.card
  wbufRaced := by rw [Chan.wbufRaced_of_offBus hxy]; exact h.wbufRaced
  rbufRaced := by rw [Chan.rbufRaced_of_offBus hxy]; exact h.rbufRaced
  window := by
    rw [RacesInWindow, Chan.wbufRaced_of_offBus hxy, Chan.rbufRaced_of_offBus hxy, Chan.programDone_of_offBus hxy,
      Chan.readDone_of_offBus hxy]
    exact h.window

/-- A step on one channel keeps the invariant if it does so there. -/
theorem memoryInv_of_onlyOn {c : Channel} {s t : State} (hs : MemoryInv s) (ho : OnlyOn c s t)
    (hc : MemOk (t.chan c) (t.env c)) : MemoryInv t := by
  rw [memoryInv_iff] at hs ⊢
  intro d
  by_cases hd : d = c
  · exact hd ▸ hc
  · rw [ho.chan d hd, ho.env d hd]; exact hs d

theorem memoryInv_setChan {c : Channel} {s : State} {x : Chan} (hs : MemoryInv s) (hx : MemOk x (s.env c)) :
    MemoryInv (s.setChan c x) := memoryInv_of_onlyOn hs ((OnlyOn.rfl' c s).setChan x) (by simpa using hx)

theorem Lines.memoryInv {c : Channel} {s t : State} (h : Lines c s t) (hs : MemoryInv s) : MemoryInv t :=
  memoryInv_of_onlyOn hs h.onlyOn ((memoryInv_iff.mp hs c).congr h.offBus h.storage)

/-- The fatal mark, what the caller is told, the program and the schedule are no part of a memory. -/
theorem memoryInv_congr {s t : State} (hs : MemoryInv s) (hc : ∀ d, t.chan d = s.chan d)
    (he : ∀ d, (t.env d).card = (s.env d).card) : MemoryInv t := by
  rw [memoryInv_iff] at hs ⊢
  exact fun d => (hs d).congr (by rw [hc]) (by rw [he]; exact id)

theorem MemOk.write {x : Chan} {e : Env} (i : Instr) (h : MemOk x e) : MemOk (Instr.write i x) e := by
  obtain ⟨hw, hr, hc, hwr, hrr, hwin⟩ := h
  unfold Instr.write
  split
  · exact ⟨hw, hr, hc, hwr, hrr, by simp [Chan.setFlag], hwin.2⟩
  · exact ⟨hw, hr, hc, hwr, hrr, hwin.1, by simp [Chan.setFlag]⟩
  · exact ⟨hw, hr, hc, hwr, hrr, hwin⟩
  · exact ⟨hw, hr, hc, hwr, hrr, hwin⟩
  · exact ⟨hw, hr, hc, hwr, hrr, hwin⟩

theorem exec_memoryInv {i : Instr} {s t : State} (hs : MemoryInv s) (h : exec i s = .next t) : MemoryInv t := by
  obtain ⟨u, r, hu, ht⟩ := (exec_inv h).wrote
  have hinv : MemoryInv u := by
    obtain hu | hu := hu
    · exact hu.memoryInv hs
    · exact hu.memoryInv (memoryInv_setChan hs ((memoryInv_iff.mp hs _).write i))
  obtain rfl | rfl := ht <;> exact memoryInv_congr hinv (by simp) (by simp)

/-! ### The main flow's stores -/

theorem atIndex_inv' {sp : Space} {i : Nat} {t u : State} (h : atIndex sp i t = .next u) :
    u = t ∧ i < Memory.size sp := by
  refine ⟨atIndex_inv h, ?_⟩
  unfold atIndex at h
  split at h
  · assumption
  · cases h

/-- The late half of R70 writes a byte of the page that the span named. -/
theorem amendLate_lines {c : Channel} {i : Nat} {s : State} : Lines c s (amendLate c i s) := by
  unfold amendLate
  split
  · refine ((Lines.refl c s).setChan _).setEnv _ fun hl => ?_
    simp only [State.setChan_env] at hl
    split
    · next hpage =>
      obtain ⟨-, hpage, hlo, hhi⟩ := hpage
      have ho := cmdOffset_lt (s.env c).card.cmd
      refine hl.write ?_ _
      simp only [Memory.size, Config.cardLen] at ho ⊢
      omega
    · exact hl
  · exact Lines.refl c s

/-- The channel after a store to its write buffer (R70). -/
def Chan.storedWbuf (x : Chan) (i : Nat) (v : Byte) : Chan :=
  { x with
    wbuf := Memory.write .wbuf x.wbuf i v
    wbufRaced := if x.programDone then x.wbufRaced else i :: x.wbufRaced }

/-- The channel after a store to its read buffer (R70). -/
def Chan.storedRbuf (x : Chan) (i : Nat) (v : Byte) : Chan :=
  { x with
    rbuf := Memory.write .rbuf x.rbuf i v
    rbufRaced := if x.readDone ∨ Config.readBufLen ≤ i then x.rbufRaced else i :: x.rbufRaced }

theorem MemOk.storedWbuf {x : Chan} {e : Env} {i : Nat} (h : MemOk x e) (hi : i < Memory.size .wbuf) (v : Byte) :
    MemOk (x.storedWbuf i v) e where
  wbuf := h.wbuf.write hi v
  rbuf := h.rbuf
  card := h.card
  wbufRaced := by
    simp only [Chan.storedWbuf]
    split
    · exact h.wbufRaced
    · simpa using ⟨hi, h.wbufRaced⟩
  rbufRaced := h.rbufRaced
  window := ⟨fun hp : x.programDone = true => by simpa [Chan.storedWbuf, hp] using h.window.1 hp, h.window.2⟩

theorem MemOk.storedRbuf {x : Chan} {e : Env} {i : Nat} (h : MemOk x e) (hi : i < Memory.size .rbuf) (v : Byte) :
    MemOk (x.storedRbuf i v) e where
  wbuf := h.wbuf
  rbuf := h.rbuf.write hi v
  card := h.card
  wbufRaced := h.wbufRaced
  rbufRaced := by
    simp only [Chan.storedRbuf]
    split
    · exact h.rbufRaced
    · next hw =>
      obtain ⟨-, hlow⟩ := not_or.mp hw
      simpa using ⟨Nat.lt_of_not_le hlow, h.rbufRaced⟩
  window := ⟨h.window.1, fun hr : x.readDone = true => by simpa [Chan.storedRbuf, hr] using h.window.2 hr⟩

/-- A store to the write buffer: the write of the channel, and in the window what R70 makes of the byte sent. -/
theorem storeWbuf_eq (c : Channel) (i : Nat) (v : Byte) (s : State) : storeWbuf c i v s =
    (if (s.chan c).programDone then s.setChan c ((s.chan c).storedWbuf i v)
      else amendLate c i (s.setChan c ((s.chan c).storedWbuf i v))).returnValue .unit := rfl

theorem storeRbuf_eq (c : Channel) (i : Nat) (v : Byte) (s : State) :
    storeRbuf c i v s = (s.setChan c ((s.chan c).storedRbuf i v)).returnValue .unit := rfl

/-- What an access does: it leaves the channels alone, or it is a store. -/
theorem runAccess_cases {a : Access} {s t : State} (h : runAccess a s = .next t) :
    (∃ c, Lines c s t) ∨
      (∃ c i v, i < Memory.size .wbuf ∧ Lines c (s.setChan c ((s.chan c).storedWbuf i v)) t) ∨
      ∃ c i v, i < Memory.size .rbuf ∧ Lines c (s.setChan c ((s.chan c).storedRbuf i v)) t := by
  unfold runAccess at h
  split at h
  · cases h; exact .inl ⟨.ch0, (Lines.refl _ s).withRet _⟩
  cases a with
  | loadRbuf c i =>
    obtain ⟨rfl, -⟩ := atIndex_inv' h
    refine .inl ⟨c, ?_⟩
    unfold loadRbuf
    split
    · exact ((Lines.refl c s).setEnv _ (by simp)).withRet _
    · exact (Lines.refl c s).withRet _
  | loadWbuf c i =>
    obtain ⟨rfl, -⟩ := atIndex_inv' h
    exact .inl ⟨c, (Lines.refl c s).withRet _⟩
  | storeWbuf c i v =>
    obtain ⟨rfl, hi⟩ := atIndex_inv' h
    refine .inr (.inl ⟨c, i, v, hi, ?_⟩)
    rw [storeWbuf_eq]
    refine Lines.withRet ?_ _
    split
    · exact Lines.refl c _
    · exact amendLate_lines
  | storeRbuf c i v =>
    obtain ⟨rfl, hi⟩ := atIndex_inv' h
    exact .inr (.inr ⟨c, i, v, hi, (Lines.refl c _).withRet _⟩)
  | loadFlags c => cases h; exact .inl ⟨c, (Lines.refl c s).withRet _⟩
  | loadGeom c => cases h; exact .inl ⟨c, (Lines.refl c s).withRet _⟩

theorem runAccess_memoryInv {a : Access} {s t : State} (hs : MemoryInv s) (h : runAccess a s = .next t) :
    MemoryInv t := by
  obtain ⟨c, ht⟩ | ⟨c, i, v, hi, ht⟩ | ⟨c, i, v, hi, ht⟩ := runAccess_cases h
  · exact ht.memoryInv hs
  · exact ht.memoryInv (memoryInv_setChan hs ((memoryInv_iff.mp hs c).storedWbuf hi v))
  · exact ht.memoryInv (memoryInv_setChan hs ((memoryInv_iff.mp hs c).storedRbuf hi v))

/-! ### The DMA engine -/

theorem MemOk.moveData {c : Channel} {dir : DmaDir} {s : State} (h : MemOk (s.chan c) (s.env c)) :
    MemOk ((moveData c dir s).chan c) ((moveData c dir s).env c) := by
  cases dir with
  | toCard =>
    simp only [Sys2Proof.Machine.moveData, State.emit_chan, State.setEnv_chan, State.emit_env, State.setEnv_env]
    exact h.congr rfl (Env.receive_legal c _)
  | fromCard =>
    have hlen := Env.answers_length (s.env c) c Config.readBufLen
    simp only [Sys2Proof.Machine.moveData, State.emit_chan, State.setEnv_chan, State.setChan_chan, State.emit_env,
      State.setEnv_env]
    generalize (s.env c).answers c Config.readBufLen = data at hlen
    refine ⟨h.wbuf, h.rbuf.writeBytes fun k hk => ?_, Env.afterSend_legal c _ h.card, h.wbufRaced, h.rbufRaced,
      h.window⟩
    simp only [Memory.size]
    omega

theorem moveData_onlyOn {c : Channel} {dir : DmaDir} {s₀ s : State} (h : OnlyOn c s₀ s) :
    OnlyOn c s₀ (moveData c dir s) := by
  cases dir with
  | toCard => exact (h.setEnv _).emit _
  | fromCard => exact ((h.setChan _).setEnv _).emit _

theorem dmaPerform_memoryInv {c : Channel} {s : State} (hs : MemoryInv s) : MemoryInv (dmaPerform c s) := by
  obtain h | h | ⟨d, b, -, h⟩ := dmaPerform_moves c s <;> rw [h]
  · exact hs
  · exact memoryInv_congr hs (by simp) (by simp)
  · refine memoryInv_of_onlyOn hs ((moveData_onlyOn ((OnlyOn.rfl' c s).setEnv _)).setChan _) ?_
    have hmoved := MemOk.moveData (c := c) (dir := d.dir) (s := s.setEnv c { s.env c with busErrorIn := b })
      (by rw [State.setEnv_chan, State.setEnv_env]; exact (memoryInv_iff.mp hs c).congr rfl id)
    rw [markPerformed, State.setChan_chan, State.setChan_env]
    exact hmoved.congr rfl id

/-- Settling the races of a window leaves draws inside the read buffer and clears the record (R70). -/
theorem callbackStart_memoryInv {c : Channel} {kind : DmaKind} {s : State} (hs : MemoryInv s) :
    MemoryInv (callbackStart c kind s) := by
  have h := memoryInv_iff.mp hs c
  refine memoryInv_of_onlyOn hs ((settleRaces_onlyOn kind (OnlyOn.rfl' c s)).setChan _) ?_
  cases kind with
  | program =>
    simp only [callbackStart, settleRaces, Chan.setFlag, State.setChan_chan, State.setChan_env]
    exact ⟨h.wbuf, h.rbuf, h.card, by simp, h.rbufRaced, by simp, h.window.2⟩
  | read =>
    have hraced : ∀ i ∈ (s.chan c).rbufRaced, i < Memory.size .rbuf := fun i hi =>
      Nat.lt_of_lt_of_le (h.rbufRaced i hi) (Nat.le_add_right _ _)
    simp only [callbackStart, settleRaces, Chan.setFlag, State.setChan_chan, State.setEnv_chan, State.setEnv_setChan,
      State.setEnv_env]
    exact ⟨h.wbuf, h.rbuf.writeEach hraced, h.card, h.wbufRaced, by simp, h.window.1, by simp⟩

theorem dmaComplete_memoryInv {c : Channel} {s : State} (hs : MemoryInv s) : MemoryInv (dmaComplete c s) := by
  obtain h | ⟨d, -, -, -, u, hu, h⟩ := dmaComplete_lines c s
  · rw [h]; exact hs
  · have hinv := hu.memoryInv (callbackStart_memoryInv hs)
    obtain h | h := h <;> rw [h]
    · exact hinv
    · exact memoryInv_congr hinv (by simp) (by simp)

theorem cardInterrupt_memoryInv {c : Channel} {s : State} (hs : MemoryInv s) : MemoryInv (cardInterrupt c s) := by
  obtain ⟨u, hu, h⟩ := cardInterrupt_lines c s
  obtain h | h := h <;> rw [h]
  · exact hu.memoryInv hs
  · exact memoryInv_congr (hu.memoryInv hs) (by simp) (by simp)

/-- Settles O53: each way a step answers writes inside the spaces and keeps the races to their windows. -/
theorem memoryInvariantIsKept : Obligations.MemoryInvariantIsKept := by
  intro s t hs h
  have hs' : MemoryInv s.dispatched := memoryInv_congr hs (by simp) (by simp)
  cases step_stepOf h with
  | idle => exact hs'
  | access a u hu => exact memoryInv_congr (runAccess_memoryInv hs' hu) (by simp) (by simp)
  | call i u hnext hcall hu => exact memoryInv_congr (exec_memoryInv hs' hu) (by simp) (by simp)
  | bench i u hmain hu => exact exec_memoryInv hs' hu
  | dmaPerform c => exact dmaPerform_memoryInv hs'
  | dmaComplete c => exact dmaComplete_memoryInv hs'
  | cardInterrupt c => exact cardInterrupt_memoryInv hs'
  | environment c e he =>
    refine ((Lines.refl c s.dispatched).setEnv e fun hl => ?_).memoryInv hs'
    simpa [he] using hl

/-! ### Flags, geometry, handler and DMA record have their writers (R21, R28, R29, R34, R35) -/

/-- What a channel holds that one operation or the callback writes is as before, and a DMA record is not cleared. -/
structure Chan.Steady (x y : Chan) : Prop where
  geom : y.geom = x.geom
  intHandler : y.intHandler = x.intHandler
  flag : ∀ kind, y.flag kind = x.flag kind
  dma : x.dma ≠ none → y.dma ≠ none

theorem Chan.Steady.refl (x : Chan) : x.Steady x := ⟨rfl, rfl, fun _ => rfl, id⟩

theorem Chan.Steady.of_offBus {x y : Chan} (h : y.offBus = x.offBus) (hd : x.dma ≠ none → y.dma ≠ none) :
    x.Steady y where
  geom := Chan.geom_of_offBus h
  intHandler := Chan.intHandler_of_offBus h
  flag kind := by
    cases kind with
    | program => exact Chan.programDone_of_offBus h
    | read => exact Chan.readDone_of_offBus h
  dma := hd

/-- Lines leave both channels steady: their own, and the other one, which they do not touch. -/
theorem Lines.steady {c : Channel} {s t : State} (h : Lines c s t) (d : Channel) : (s.chan d).Steady (t.chan d) := by
  by_cases hd : d = c
  · subst hd
    exact .of_offBus h.offBus fun hne => by rw [h.dma hne]; exact hne
  · rw [h.onlyOn.chan d hd]
    exact .refl _

/-- The lines after a write of the channel. -/
theorem Lines.steady_setChan {c : Channel} {s t : State} {x : Chan} (h : Lines c (s.setChan c x) t) (d : Channel) :
    (d = c ∧ x.Steady (t.chan c)) ∨ (s.chan d).Steady (t.chan d) := by
  have hsteady := h.steady d
  by_cases hd : d = c
  · subst hd; exact .inl ⟨rfl, by simpa using hsteady⟩
  · rw [State.setChan_chan_ne _ _ _ _ hd] at hsteady; exact .inr hsteady

theorem runAccess_steady {a : Access} {s t : State} (h : runAccess a s = .next t) (d : Channel) :
    (s.chan d).Steady (t.chan d) := by
  obtain ⟨c, ht⟩ | ⟨c, i, v, -, ht⟩ | ⟨c, i, v, -, ht⟩ := runAccess_cases h
  · exact ht.steady d
  · obtain ⟨rfl, hx⟩ | hd := ht.steady_setChan d
    · exact ⟨hx.geom, hx.intHandler, fun kind => by rw [hx.flag]; cases kind <;> rfl, hx.dma⟩
    · exact hd
  · obtain ⟨rfl, hx⟩ | hd := ht.steady_setChan d
    · exact ⟨hx.geom, hx.intHandler, fun kind => by rw [hx.flag]; cases kind <;> rfl, hx.dma⟩
    · exact hd

theorem exec_steady {i : Instr} {s t : State} (h : exec i s = .next t) (d : Channel) :
    (d = i.channel ∧ (Instr.write i (s.chan d)).Steady (t.chan d)) ∨ (s.chan d).Steady (t.chan d) := by
  obtain ⟨u, r, hu, ht⟩ := (exec_inv h).wrote
  have hchan : t.chan d = u.chan d := by obtain rfl | rfl := ht <;> simp
  rw [hchan]
  obtain hu | hu := hu
  · exact .inr (hu.steady d)
  · obtain ⟨rfl, hx⟩ | hd := hu.steady_setChan d
    · exact .inl ⟨rfl, hx⟩
    · exact .inr hd

/-- Only operations of the main flow write a field besides their lines. -/
theorem Instr.write_of_not_mainFlow {i : Instr} (h : i.mainFlow = false) (x : Chan) : Instr.write i x = x := by
  cases i with
  | beginProgram | beginRead | decodeGeometry | registerIntHandler => cases h
  | _ => rfl

theorem moveData_steady (c : Channel) (dir : DmaDir) (s : State) : (s.chan c).Steady ((moveData c dir s).chan c) := by
  cases dir <;> exact ⟨by simp [moveData], by simp [moveData], fun kind => by cases kind <;> simp [moveData, Chan.flag],
    by simp [moveData]⟩

theorem dmaPerform_steady (c : Channel) (s : State) (d : Channel) : (s.chan d).Steady ((dmaPerform c s).chan d) := by
  obtain h | h | ⟨dma, b, hdma, h⟩ := dmaPerform_moves c s <;> rw [h]
  · exact .refl _
  · rw [State.abort_chan]; exact .refl _
  · generalize ht : s.setEnv c { s.env c with busErrorIn := b } = t
    have hchan : ∀ d, t.chan d = s.chan d := by simp [← ht]
    rw [← hchan]
    by_cases hd : d = c
    · subst hd
      have hmoved := moveData_steady d dma.dir t
      rw [markPerformed, State.setChan_chan]
      exact ⟨hmoved.geom, hmoved.intHandler, hmoved.flag, by simpa using hmoved.dma⟩
    · have ho := (moveData_onlyOn (dir := dma.dir) (OnlyOn.rfl' c t)).setChan
      rw [markPerformed, (ho _).chan d hd]
      exact .refl _

theorem cardInterrupt_steady (c : Channel) (s : State) (d : Channel) :
    (s.chan d).Steady ((cardInterrupt c s).chan d) := by
  obtain ⟨u, hu, h⟩ := cardInterrupt_lines c s
  have hchan : (cardInterrupt c s).chan d = u.chan d := by obtain h | h := h <;> simp [h]
  rw [hchan]
  exact hu.steady d

/-- A completion is the only step that sets a flag, and the flag is that of the DMA it completes. -/
theorem dmaComplete_steady (c : Channel) (s : State) (d : Channel) :
    (s.chan d).Steady ((dmaComplete c s).chan d) ∨ d = c ∧ ∃ dma, (s.chan c).dma = some dma ∧ dma.performed = true ∧
      ((dmaComplete c s).chan c).geom = (s.chan c).geom ∧
      ((dmaComplete c s).chan c).intHandler = (s.chan c).intHandler ∧
      ∀ kind, ((dmaComplete c s).chan c).flag kind = ((s.chan c).setFlag dma.kind true).flag kind := by
  obtain h | ⟨dma, -, hdma, hp, u, hu, h⟩ := dmaComplete_lines c s
  · rw [h]; exact .inl (.refl _)
  · have hchan : ∀ d, (dmaComplete c s).chan d = u.chan d := by obtain h | h := h <;> simp [h]
    have hsteady := hu.steady d
    rw [hchan, hchan]
    by_cases hd : d = c
    · subst hd
      refine .inr ⟨rfl, dma, hdma, hp, ?_, ?_, fun kind => ?_⟩
      · rw [hsteady.geom]; cases dma.kind <;> simp [callbackStart, settleRaces]
      · rw [hsteady.intHandler]; cases dma.kind <;> simp [callbackStart, settleRaces]
      · rw [hsteady.flag]; cases dma.kind <;> cases kind <;> simp [callbackStart, settleRaces, Chan.setFlag, Chan.flag]
    · have ho := (settleRaces_onlyOn dma.kind (OnlyOn.rfl' c s)).setChan
      rw [callbackStart, (ho _).chan d hd] at hsteady
      exact .inl hsteady

/-- What a step leaves of a channel: all of it that has one writer, or the main flow's next call is of an operation that
writes there, or the callback of the channel's performed DMA has run. -/
theorem step_steady {s t : State} (h : step s = .next t) (c : Channel) :
    (s.chan c).Steady (t.chan c) ∨
      (∃ i, MainFlowNext s ∧ NextCall i s ∧ i.channel = c ∧ (Instr.write i (s.chan c)).Steady (t.chan c)) ∨
      (s.agenda.head? = some (.dmaComplete c) ∧ ∃ d, (s.chan c).dma = some d ∧ d.performed = true ∧
        (t.chan c).geom = (s.chan c).geom ∧ (t.chan c).intHandler = (s.chan c).intHandler ∧
        ∀ kind, (t.chan c).flag kind = ((s.chan c).setFlag d.kind true).flag kind) := by
  rw [← State.dispatched_chan s c]
  cases step_stepOf h with
  | idle => exact .inl (.refl _)
  | access a u hu => exact .inl (by simpa using runAccess_steady hu c)
  | call i u hnext hcall hu =>
    obtain ⟨hc, hx⟩ | hc := exec_steady hu c
    · exact .inr (.inl ⟨i, hnext, hcall, hc.symm, by simpa using hx⟩)
    · exact .inl (by simpa using hc)
  | bench i u hmain hu =>
    obtain ⟨-, hx⟩ | hc := exec_steady hu c
    · rw [Instr.write_of_not_mainFlow hmain] at hx; exact .inl hx
    · exact .inl hc
  | dmaPerform d => exact .inl (dmaPerform_steady d _ c)
  | dmaComplete d hhead =>
    obtain hc | ⟨rfl, dma, hdma⟩ := dmaComplete_steady d s.dispatched c
    · exact .inl hc
    · exact .inr (.inr ⟨hhead, dma, hdma⟩)
  | cardInterrupt d => exact .inl (cardInterrupt_steady d _ c)
  | environment d e => rw [State.setEnv_chan]; exact .inl (.refl _)

/-! ### The four writes -/

@[simp] theorem Instr.write_dma (i : Instr) (x : Chan) : (Instr.write i x).dma = x.dma := by
  cases i <;> simp [Instr.write]

/-- The begin operation of a kind is the only one that writes the flag of that kind, and it clears it. -/
theorem Instr.write_flag {i : Instr} {x : Chan} {kind : DmaKind} (h : (Instr.write i x).flag kind ≠ x.flag kind) :
    (Instr.write i x).flag kind = false ∧ ∃ sp o n, i = beginInstr i.channel sp o n kind := by
  cases i with
  | beginProgram c sp o =>
    cases kind with
    | program => exact ⟨rfl, sp, o, 0, rfl⟩
    | read => exact absurd rfl h
  | beginRead c sp o n =>
    cases kind with
    | program => exact absurd rfl h
    | read => exact ⟨rfl, sp, o, n, rfl⟩
  | decodeGeometry c id => exact absurd (by cases kind <;> rfl) h
  | registerIntHandler c hd => exact absurd (by cases kind <;> rfl) h
  | _ => exact absurd rfl h

theorem Instr.write_geom {i : Instr} {x : Chan} (h : (Instr.write i x).geom ≠ x.geom) :
    ∃ id, i = .decodeGeometry i.channel id := by
  cases i with
  | decodeGeometry c id => exact ⟨id, rfl⟩
  | beginProgram c sp o => exact absurd (Chan.setFlag_geom ..) h
  | beginRead c sp o n => exact absurd (Chan.setFlag_geom ..) h
  | _ => exact absurd rfl h

theorem Instr.write_intHandler {i : Instr} {x : Chan} (h : (Instr.write i x).intHandler ≠ x.intHandler) :
    ∃ hd, i = .registerIntHandler i.channel hd := by
  cases i with
  | registerIntHandler c hd => exact ⟨hd, rfl⟩
  | beginProgram c sp o => exact absurd (Chan.setFlag_intHandler ..) h
  | beginRead c sp o n => exact absurd (Chan.setFlag_intHandler ..) h
  | _ => exact absurd rfl h

/-- Settles O55: a step leaves the flags and the record, or it is a begin's call, or the callback. -/
theorem onlyBeginAndCallbackWriteTheFlags : Obligations.OnlyBeginAndCallbackWriteTheFlags := by
  intro s t c kind h
  obtain hx | ⟨i, hnext, hcall, rfl, hx⟩ | ⟨hhead, d, hd, hp, -, -, hflag⟩ := step_steady h c
  · rw [hx.flag]
    exact ⟨fun hf ht => by simp [hf] at ht, fun hf ht => by simp [hf] at ht, fun hd ht => absurd ht (hx.dma hd)⟩
  · rw [hx.flag]
    refine ⟨fun hf ht => ?_, fun hf ht => ?_, fun hd ht => absurd ht (hx.dma (by simpa using hd))⟩
    · obtain ⟨hclear, -⟩ := Instr.write_flag (i := i) (x := s.chan i.channel) (kind := kind) (by simp [hf, ht])
      simp [hclear] at ht
    · obtain ⟨-, sp, o, n, hi⟩ := Instr.write_flag (i := i) (x := s.chan i.channel) (kind := kind) (by simp [hf, ht])
      have hbegin : NextCall (beginInstr i.channel sp o n kind) s := hi ▸ hcall
      exact ⟨hnext, sp, o, n, by cases kind <;> exact hbegin⟩
  · rw [hflag]
    refine ⟨fun hf ht => ⟨hhead, d, hd, ?_, hp⟩, fun hf ht => ?_, fun _ _ => hhead⟩
    · cases hk : d.kind <;> cases kind <;> simp_all [Chan.setFlag, Chan.flag]
    · cases hk : d.kind <;> cases kind <;> simp_all [Chan.setFlag, Chan.flag]

/-- Settles O58: a step leaves both, or it is the call of an operation that writes one of them. -/
theorem geometryAndHandlerHaveOneWriter : Obligations.GeometryAndHandlerHaveOneWriter := by
  intro s t c h
  obtain hx | ⟨i, hnext, hcall, rfl, hx⟩ | ⟨-, -, -, -, hgeom, hhandler, -⟩ := step_steady h c
  · exact ⟨fun hg => absurd hx.geom hg, fun hh => absurd hx.intHandler hh⟩
  · rw [hx.geom, hx.intHandler]
    refine ⟨fun hg => ?_, fun hh => ?_⟩
    · obtain ⟨id, hi⟩ := Instr.write_geom hg
      exact ⟨hnext, id, hi ▸ hcall⟩
    · obtain ⟨hd, hi⟩ := Instr.write_intHandler hh
      exact ⟨hnext, hd, hi ▸ hcall⟩
  · exact ⟨fun hg => absurd hgeom hg, fun hh => absurd hhandler hh⟩

/-! ### Operations -/

/-- Settles O51: the program and the schedule are no part of what lines write, and a refusal restores the state. -/
theorem everyOperationAnswers : Obligations.EveryOperationAnswers := by
  intro i s
  obtain ⟨t, ht, ⟨u, r, hu, htu⟩, hrefused, -⟩ := exec_answers i s
  refine ⟨t, ht, ?_, ?_, fun e info he hret => hrefused e info hret ?_⟩
  · obtain rfl | rfl := htu <;> exact hu.onlyOn.program
  · obtain rfl | rfl := htu <;> exact hu.onlyOn.agenda
  · obtain rfl | rfl := he <;> rfl

/-- Settles O57: the lines of an operation and what it writes besides them are on its own channel. -/
theorem channelsAreIndependent : Obligations.ChannelsAreIndependent := by
  intro i s t d h hd
  obtain ⟨u, r, hu, htu⟩ := (exec_inv h).wrote
  obtain rfl | rfl := htu <;> exact ⟨by simpa using hu.onlyOn.chan d hd, by simpa using hu.onlyOn.env d hd⟩

end Sys2Proof.Machine

/-! ## Words and operations (R90 to R104)

Each operand has one form: its reader takes exactly the bytes its writer gives (`takeNat_eq_ok` and its companions). A
row's parser is a chain of readers, so it accepts the operand bytes of one operation and nothing else, up to the pad
byte (`parse_eq_ok`), and both directions between words and operations follow. No reader answers that a first byte is
unassigned, so only the lookup of the row does. -/

namespace Sys2Proof.CallWords

open Sys2Proof.AddressField

/-! ### Chains of readers -/

section
variable {ε α β : Type} {x : Except ε α} {f : α → Except ε β}

theorem bind_eq_ok {b : β} : (x >>= f) = .ok b ↔ ∃ a, x = .ok a ∧ f a = .ok b := by
  cases x <;> simp [bind, Except.bind]

theorem bind_eq_error {e : ε} : (x >>= f) = .error e ↔ x = .error e ∨ ∃ a, x = .ok a ∧ f a = .error e := by
  cases x <;> simp [bind, Except.bind]

theorem pure_eq_ok {a b : α} : (pure a : Except ε α) = .ok b ↔ a = b := by simp [pure, Except.pure]

end

/-! ### Each operand has one form -/

theorem takeChannel_eq_ok {bs rest : List Byte} {c : Channel} :
    takeChannel bs = .ok (c, rest) ↔ bs = encChannel c :: rest := by
  cases bs with
  | nil => simp [takeChannel]
  | cons b bs =>
    rw [takeChannel]
    split
    · next h => cases c <;> simp [encChannel, h]
    · split
      · next h => cases c <;> simp [encChannel, h]
      · cases c <;> simp_all [encChannel]

theorem takeBool_eq_ok {bs rest : List Byte} {v : Bool} : takeBool bs = .ok (v, rest) ↔ bs = encBool v :: rest := by
  cases bs with
  | nil => simp [takeBool]
  | cons b bs =>
    rw [takeBool]
    split
    · next h => cases v <;> simp [encBool, h]
    · split
      · next h => cases v <;> simp [encBool, h]
      · cases v <;> simp_all [encBool]

/-- More fuel than the number itself changes nothing. -/
theorem encNatFrom_congr {f g n : Nat} (hf : n ≤ f) (hg : n ≤ g) : encNatFrom f n = encNatFrom g n := by
  induction f generalizing g n with
  | zero =>
    obtain rfl : n = 0 := by omega
    cases g <;> rfl
  | succ f ih =>
    cases g with
    | zero =>
      obtain rfl : n = 0 := by omega
      rfl
    | succ g =>
      unfold encNatFrom
      split
      · rfl
      · rw [ih (g := g) (by omega) (by omega)]

theorem encNat_of_lt {n : Nat} (h : n < 128) : encNat n = [BitVec.ofNat 8 n] := by
  cases n with
  | zero => rfl
  | succ n => simp [encNat, encNatFrom, h]

theorem encNat_of_le {n : Nat} (h : 128 ≤ n) :
    encNat n = BitVec.ofNat 8 (128 + n % 128) :: encNat (n / 128 - 1) := by
  obtain ⟨m, rfl⟩ : ∃ m, n = m + 1 := ⟨n - 1, by omega⟩
  rw [encNat, encNatFrom, if_neg (by omega), encNatFrom_congr (g := (m + 1) / 128 - 1) (by omega) (by omega), encNat]

theorem takeNat_encNat (n : Nat) (rest : List Byte) : takeNat (encNat n ++ rest) = .ok (n, rest) := by
  induction n using Nat.strong_induction_on with
  | _ n ih =>
    by_cases h : n < 128
    · have hb : (BitVec.ofNat 8 n).toNat = n := by rw [BitVec.toNat_ofNat]; omega
      simp [encNat_of_lt h, takeNat, hb, h]
    · have hb : (BitVec.ofNat 8 (128 + n % 128)).toNat = 128 + n % 128 := by rw [BitVec.toNat_ofNat]; omega
      have hn : 128 + n % 128 + 128 * (n / 128 - 1) = n := by omega
      simp [encNat_of_le (Nat.le_of_not_lt h), takeNat, hb, ih (n / 128 - 1) (by omega), hn]

theorem eq_encNat_of_takeNat {bs rest : List Byte} {n : Nat} (h : takeNat bs = .ok (n, rest)) :
    bs = encNat n ++ rest := by
  induction bs generalizing n with
  | nil => cases h
  | cons b bs ih =>
    have hb := b.isLt
    unfold takeNat at h
    split at h
    · next hlt =>
      cases h
      simp [encNat_of_lt hlt]
    · split at h
      · next m rest' hm =>
        cases h
        have hmod : (b.toNat + 128 * m) % 128 = b.toNat - 128 := by omega
        have hdiv : (b.toNat + 128 * m) / 128 - 1 = m := by omega
        rw [encNat_of_le (by omega), hmod, hdiv, ih hm, show 128 + (b.toNat - 128) = b.toNat by omega]
        simp
      · cases h

theorem takeNat_eq_ok {bs rest : List Byte} {n : Nat} : takeNat bs = .ok (n, rest) ↔ bs = encNat n ++ rest :=
  ⟨eq_encNat_of_takeNat, fun h => h ▸ takeNat_encNat n rest⟩

theorem takeSpeed_eq_ok {bs rest : List Byte} {sp : Speed} :
    takeSpeed bs = .ok (sp, rest) ↔ bs = encSpeed sp ++ rest := by
  simp only [takeSpeed, bind_eq_ok, pure_eq_ok, Prod.exists, Prod.mk.injEq, takeNat_eq_ok, encSpeed]
  constructor
  · rintro ⟨n, r, rfl, rfl, rfl⟩; rfl
  · rintro rfl; exact ⟨_, _, rfl, rfl, rfl⟩

theorem encSlot_slotOf (n : Nat) : encSlot (slotOf n) = encNat n := by cases n <;> rfl

theorem exists_slotOf (slot : DeviceSlot) : ∃ n, slot = slotOf n := by
  cases slot with
  | card => exact ⟨0, rfl⟩
  | other k => exact ⟨k + 1, rfl⟩

theorem slotOf_injective {m n : Nat} (h : slotOf m = slotOf n) : m = n := by
  cases m <;> cases n <;> simp_all [slotOf]

theorem takeSlot_eq_ok {bs rest : List Byte} {slot : DeviceSlot} :
    takeSlot bs = .ok (slot, rest) ↔ bs = encSlot slot ++ rest := by
  obtain ⟨n, rfl⟩ := exists_slotOf slot
  simp only [takeSlot, bind_eq_ok, pure_eq_ok, Prod.exists, Prod.mk.injEq, takeNat_eq_ok, encSlot_slotOf]
  constructor
  · rintro ⟨m, r, rfl, h, rfl⟩; rw [slotOf_injective h]
  · rintro rfl; exact ⟨_, _, rfl, rfl, rfl⟩

theorem take16_eq_ok {bs rest : List Byte} {v : BitVec 16} : take16 bs = .ok (v, rest) ↔ bs = enc16 v ++ rest := by
  constructor
  · intro h
    unfold take16 at h
    split at h <;> cases h
    rw [enc16]
    simp (disch := decide) only [BitVec.extractLsb'_append_eq_of_le, BitVec.extractLsb'_append_eq_of_add_le]
    simp
  · rintro rfl
    have hv : v.extractLsb' 8 8 ++ v.extractLsb' 0 8 = v := by
      rw [BitVec.extractLsb'_append_extractLsb'_eq_extractLsb' (by decide), BitVec.extractLsb'_eq_self]
    simp [enc16, take16, hv]

theorem take32_eq_ok {bs rest : List Byte} {v : BitVec 32} : take32 bs = .ok (v, rest) ↔ bs = enc32 v ++ rest := by
  constructor
  · intro h
    unfold take32 at h
    split at h <;> cases h
    rw [enc32]
    simp (disch := decide) only [BitVec.extractLsb'_append_eq_of_le, BitVec.extractLsb'_append_eq_of_add_le]
    simp
  · rintro rfl
    have hv : v.extractLsb' 24 8 ++ v.extractLsb' 16 8 ++ v.extractLsb' 8 8 ++ v.extractLsb' 0 8 = v := by
      simp only [BitVec.extractLsb'_append_extractLsb'_eq_extractLsb', BitVec.extractLsb'_eq_self]
    simp [enc32, take32, hv]

theorem takeBytes_eq_ok {n : Nat} {bs rest d : List Byte} :
    takeBytes n bs = .ok (d, rest) ↔ d.length = n ∧ bs = d ++ rest := by
  unfold takeBytes
  split
  · next h =>
    simp only [reduceCtorEq, false_iff]
    rintro ⟨rfl, rfl⟩
    simp at h
  · next h =>
    simp only [Except.ok.injEq, Prod.mk.injEq]
    constructor
    · rintro ⟨rfl, rfl⟩; simp; omega
    · rintro ⟨rfl, rfl⟩; simp

theorem takePad_eq_ok {bs rest : List Byte} : takePad bs = .ok rest ↔ ∃ p, bs = p :: rest := by
  cases bs <;> simp [takePad]

theorem takeEnable_eq_ok {bs rest : List Byte} {en : Bool} :
    takeEnable bs = .ok (en, rest) ↔ bs = (if en then 0x01 else 0x00) :: rest := by
  cases bs with
  | nil => simp [takeEnable]
  | cons b bs =>
    rw [takeEnable]
    split
    · next h =>
      have hlow : (b.setWidth 1).setWidth 8 = b := setWidth_setWidth_of_and_not (n := 1) h
      obtain hzero | hone := BitVec.eq_zero_or_eq_one (b.setWidth 1)
      · obtain rfl : b = 0 := by rw [← hlow, hzero]; rfl
        cases en <;> simp
      · obtain rfl : b = 1 := by rw [← hlow, hone]; rfl
        cases en <;> simp
    · next h => cases en <;> simp <;> rintro rfl <;> simp at h

/-- A widened word has no bit where a mask of the added bits has one. -/
theorem setWidth_and_eq_zero {n w : Nat} (x : BitVec n) {m : BitVec w} (h : m.setWidth n = 0) :
    x.setWidth w &&& m = 0 := by
  ext i hi
  by_cases hin : i < n
  · have hm : m.getLsbD i = false := by simpa [hin] using congrArg (·.getLsbD i) h
    simp [← BitVec.getLsbD_eq_getElem, hm]
  · simp [← BitVec.getLsbD_eq_getElem, BitVec.getLsbD_of_ge x i (by omega)]

/-- The encoder leaves the nine reserved bits of the field zero (R99). -/
theorem addrEncode_reserved (o : Word) : ∃ b0 b1 b2 b3, addrEncode o = [b0, b1, b2, b3] ∧
    b0 &&& 0xC0 = 0 ∧ b2 &&& 0xFC = 0 ∧ b3 &&& 0x80 = 0 := by
  exact ⟨_, _, _, _, addrEncode_eq_slices o, setWidth_and_eq_zero _ (by decide), setWidth_and_eq_zero _ (by decide),
    setWidth_and_eq_zero _ (by decide)⟩

theorem takeAddr_eq_ok {bs rest : List Byte} {o : Offset23} :
    takeAddr bs = .ok (o, rest) ↔ bs = addrEncode (o.setWidth 32) ++ rest := by
  constructor
  · intro h
    unfold takeAddr at h
    split at h
    · split at h <;> cases h
      next hz =>
        obtain ⟨h0, h2, h3⟩ := hz
        rw [addrEncode_addrDecode h0 h2 h3]
        rfl
    · cases h
  · rintro rfl
    obtain ⟨b0, b1, b2, b3, hbytes, hz⟩ := addrEncode_reserved (o.setWidth 32)
    have ho : addrDecode b0 b1 b2 b3 = o := by
      have hround := addrOf_addrEncode (o.setWidth 32)
      rw [hbytes] at hround
      simpa [addrOf] using hround
    rw [hbytes]
    simp only [List.cons_append, List.nil_append, takeAddr]
    rw [if_pos hz, ho]

/-! ### The operands of each row -/

/-- The operand bytes of an operation, after its opcode or select code. -/
def operands (i : Instr) : List Byte := (encode i).tail

theorem encode_eq_cons (i : Instr) : encode i = i.row.code :: operands i := by
  cases i with
  | registerIntHandler c h => cases h; rfl
  | _ => rfl

theorem rowOf_code (i : Instr) : rowOf i.space i.row.code = some i.row := by cases i <;> rfl

section
variable {rest : List Byte}

@[simp] theorem ok_bind {ε α β : Type} (a : α) (f : α → Except ε β) : (Except.ok a >>= f) = f a := rfl
@[simp] theorem ok_map {ε α β : Type} (a : α) (f : α → β) : f <$> (Except.ok a : Except ε α) = .ok (f a) := rfl
@[simp] theorem takePad_cons {p : Byte} : takePad (p :: rest) = .ok rest := rfl
@[simp] theorem takeChannel_encChannel {c : Channel} : takeChannel (encChannel c :: rest) = .ok (c, rest) :=
  takeChannel_eq_ok.mpr rfl
@[simp] theorem takeBool_encBool {v : Bool} : takeBool (encBool v :: rest) = .ok (v, rest) := takeBool_eq_ok.mpr rfl
@[simp] theorem takeNat_encNat_append {n : Nat} : takeNat (encNat n ++ rest) = .ok (n, rest) := takeNat_encNat n rest
@[simp] theorem takeSpeed_encSpeed {sp : Speed} : takeSpeed (encSpeed sp ++ rest) = .ok (sp, rest) :=
  takeSpeed_eq_ok.mpr rfl
@[simp] theorem takeSlot_encSlot {slot : DeviceSlot} : takeSlot (encSlot slot ++ rest) = .ok (slot, rest) :=
  takeSlot_eq_ok.mpr rfl
@[simp] theorem take16_enc16 {v : BitVec 16} : take16 (enc16 v ++ rest) = .ok (v, rest) := take16_eq_ok.mpr rfl
@[simp] theorem take32_enc32 {v : BitVec 32} : take32 (enc32 v ++ rest) = .ok (v, rest) := take32_eq_ok.mpr rfl
@[simp] theorem takeBytes_append {d : List Byte} : takeBytes d.length (d ++ rest) = .ok (d, rest) :=
  takeBytes_eq_ok.mpr ⟨rfl, rfl⟩
@[simp] theorem takeEnable_byte {en : Bool} : takeEnable ((if en then 1#8 else 0#8) :: rest) = .ok (en, rest) :=
  takeEnable_eq_ok.mpr rfl
@[simp] theorem takeAddr_addrEncode {o : Offset23} :
    takeAddr (addrEncode (o.setWidth 32) ++ rest) = .ok (o, rest) := takeAddr_eq_ok.mpr rfl

end

/-- A DMA kind, a direction and a length are Booleans on the wire of a call (log 3). -/
theorem encKind_eq (kind : DmaKind) : encKind kind = encBool (decide (kind = .read)) := by cases kind <;> rfl
theorem encDir_eq (kind : DmaKind) : encDir kind.dir = encBool (decide (kind = .read)) := by cases kind <;> rfl
theorem encLen_eq (kind : DmaKind) : encLen kind.len = encBool (decide (kind = .read)) := by cases kind <;> rfl

/-- The parser of an operation's row takes its operand bytes and gives the operation back. -/
theorem parse_operands {i : Instr} (h : i.wf = true) (rest : List Byte) :
    parse i.row (operands i ++ rest) = .ok (i, rest) := by
  cases i with
  | identify c => simp [Instr.row, parse, operands, encode, cmdIdentify]
  | status c => simp [Instr.row, parse, operands, encode, cmdStatus]
  | clearStatusCmd c => simp [Instr.row, parse, operands, encode, cmdClearStatus]
  | enableInt c en => simp [Instr.row, parse, operands, encode, cmdEnableInt]
  | pageProgram c o => simp [Instr.row, parse, operands, encode, cmdPageProgram]
  | pageRead c o n => simp [Instr.row, parse, operands, encode, cmdPageRead]
  | immRead c n =>
    have hn : n - 1 + 1 = n := Nat.sub_add_cancel (by simpa [Instr.wf] using h)
    simp [Instr.row, parse, operands, encode, hn]
  | dmaTransfer c kind dir len =>
    obtain ⟨rfl, rfl⟩ : dir = kind.dir ∧ len = kind.len := by simpa [Instr.wf] using h
    simp only [Instr.row, parse, operands, encode, encKind_eq, encDir_eq, encLen_eq]
    cases kind <;> simp <;> exact ⟨rfl, rfl, rfl⟩
  | registerIntHandler c hd => cases hd; simp [Instr.row, parse, operands, encode]
  | _ => simp [Instr.row, parse, operands, encode]

/-- Settles O3: the first byte names the row, and the row's parser takes the operand bytes. -/
theorem decodeInvertsEncode : Obligations.DecodeInvertsEncode := by
  intro i rest hwf
  rw [encode_eq_cons, List.cons_append, decode]
  simp only [rowOf_code, parse_operands hwf]

/-! ### What a parser accepts -/

/-- The bytes that a row's operation may have for operands: its own, or any pad byte before the channel (R94). -/
def Operands (i : Instr) (bs : List Byte) : Prop :=
  match i with
  | .identify c | .status c => ∃ p, bs = [p, encChannel c]
  | i => bs = operands i

/-- A parser answers an operation of its row, and what it took are that operation's operand bytes. -/
theorem parse_eq_ok {r : Row} {bs rest : List Byte} {i : Instr} (h : parse r bs = .ok (i, rest)) :
    i.row = r ∧ ∃ ops, Operands i ops ∧ bs = ops ++ rest := by
  cases r <;> simp only [parse, bind_eq_ok, pure_eq_ok, Prod.exists, Prod.mk.injEq, takePad_eq_ok, takeChannel_eq_ok,
    takeBool_eq_ok, takeNat_eq_ok, takeSpeed_eq_ok, takeSlot_eq_ok, take16_eq_ok, take32_eq_ok, takeBytes_eq_ok,
    takeEnable_eq_ok, takeAddr_eq_ok] at h
  case identify | status =>
    obtain ⟨_, ⟨p, rfl⟩, c, _, rfl, rfl, rfl⟩ := h
    exact ⟨rfl, _, ⟨p, rfl⟩, rfl⟩
  case clearStatusCmd | join | unlock | deselect | isAttached =>
    obtain ⟨c, _, rfl, rfl, rfl⟩ := h
    exact ⟨rfl, _, rfl, rfl⟩
  case enableInt | pageProgram | getId | readStatus | clearStatus | waitReady | decodeGeometry | lock
      | registerIntHandler =>
    obtain ⟨x, _, rfl, y, _, rfl, rfl, rfl⟩ := h
    exact ⟨rfl, _, rfl, by simp [operands, encode, cmdEnableInt, cmdPageProgram]⟩
  case pageRead | enableInterrupt | beginProgram | select =>
    obtain ⟨x, _, rfl, y, _, rfl, z, _, rfl, rfl, rfl⟩ := h
    exact ⟨rfl, _, rfl, by simp [operands, encode, cmdPageRead]⟩
  case beginRead =>
    obtain ⟨c, _, rfl, sp, _, rfl, o, _, rfl, n, _, rfl, rfl, rfl⟩ := h
    exact ⟨rfl, _, rfl, by simp [operands, encode]⟩
  case immWrite =>
    obtain ⟨c, _, rfl, _, _, rfl, d, _, ⟨rfl, rfl⟩, rfl, rfl⟩ := h
    exact ⟨rfl, _, rfl, by simp [operands, encode]⟩
  case immRead =>
    obtain ⟨c, _, rfl, n, _, rfl, rfl, rfl⟩ := h
    exact ⟨rfl, _, rfl, by simp [operands, encode]⟩
  case dmaTransfer =>
    obtain ⟨c, _, rfl, k, _, rfl, d, _, rfl, l, _, rfl, rfl, rfl⟩ := h
    refine ⟨rfl, _, rfl, ?_⟩
    cases k <;> cases d <;> cases l <;> rfl

theorem rowOf_eq_some {k : DecodeSpace} {b : Byte} {r : Row} (h : rowOf k b = some r) : r.space = k ∧ r.code = b := by
  simpa using List.find?_some h

/-- What decodes is of its decode space, and is its row's first byte, operand bytes and the rest. -/
theorem decode_eq_ok {k : DecodeSpace} {bytes rest : List Byte} {i : Instr} (h : decode k bytes = .ok (i, rest)) :
    i.space = k ∧ ∃ ops, Operands i ops ∧ bytes = i.row.code :: (ops ++ rest) := by
  unfold decode at h
  split at h
  · cases h
  · split at h
    · cases h
    · next b bs r hr =>
      obtain ⟨rfl, rfl⟩ := rowOf_eq_some hr
      obtain ⟨rfl, ops, hops, rfl⟩ := parse_eq_ok h
      exact ⟨rfl, ops, hops, rfl⟩

/-- Settles O4: every operand has one form, so the words of an operation are the only bytes that decode to it. -/
theorem encodeInvertsDecode : Obligations.EncodeInvertsDecode := by
  intro k bytes rest i h
  obtain ⟨hk, ops, hops, rfl⟩ := decode_eq_ok h
  refine ⟨hk, ?_⟩
  cases i with
  | identify c => obtain ⟨p, rfl⟩ := hops; exact ⟨p, rfl⟩
  | status c => obtain ⟨p, rfl⟩ := hops; exact ⟨p, rfl⟩
  | _ =>
    obtain rfl : ops = operands _ := hops
    exact (congrArg (· ++ rest) (encode_eq_cons _)).symm

/-! ### Refusals -/

theorem rowOf_eq_none {k : DecodeSpace} {b : Byte} : rowOf k b = none ↔ ∀ r ∈ Row.all, r.space = k → r.code ≠ b := by
  simp [rowOf]

/-- The codes of the three decode spaces (R93, R104). -/
theorem rowOf_eq_none_iff (k : DecodeSpace) (b : Byte) : rowOf k b = none ↔
    match k with
    | .wire => b ∉ ([0x52, 0x81, 0x83, 0x85, 0x89, 0xF2] : List Byte)
    | .hostOp => ¬ b.toNat ≤ 0x08
    | .busOp => ¬ (0x10 ≤ b.toNat ∧ b.toNat ≤ 0x18) := by
  rw [rowOf_eq_none]
  cases k
  case wire => simp [Row.all, Row.space, Row.code]; tauto
  case hostOp => simp [Row.all, Row.space, Row.code]; bv_omega
  case busOp => simp [Row.all, Row.space, Row.code]; bv_omega

/-- The answer is not that a first byte is unassigned. -/
def Assigned {α : Type} (x : Except DecodeError α) : Prop := ∀ b, x ≠ .error (.unassigned b)

theorem assigned_ok {α : Type} {a : α} : Assigned (.ok a) := by simp [Assigned]

theorem Assigned.bind {α β : Type} {x : Except DecodeError α} {f : α → Except DecodeError β} (hx : Assigned x)
    (hf : ∀ a, Assigned (f a)) : Assigned (x >>= f) := fun b h =>
  (bind_eq_error.mp h).elim (hx b) fun ⟨a, _, ha⟩ => hf a b ha

theorem assigned_takeNat (bs : List Byte) : Assigned (takeNat bs) := by
  induction bs with
  | nil => simp [Assigned, takeNat]
  | cons b bs ih =>
    rw [takeNat]
    split
    · exact assigned_ok
    · split
      · exact assigned_ok
      · next e he => exact fun b' h => ih b' (by rw [he]; exact congrArg _ (Except.error.inj h))

theorem assigned_takeChannel (bs : List Byte) : Assigned (takeChannel bs) := by
  cases bs with
  | nil => simp [Assigned, takeChannel]
  | cons b bs => rw [takeChannel]; split_ifs <;> simp [Assigned]

theorem assigned_takeBool (bs : List Byte) : Assigned (takeBool bs) := by
  cases bs with
  | nil => simp [Assigned, takeBool]
  | cons b bs => rw [takeBool]; split_ifs <;> simp [Assigned]

theorem assigned_takeSlot (bs : List Byte) : Assigned (takeSlot bs) :=
  (assigned_takeNat bs).bind fun _ => assigned_ok

theorem assigned_takeSpeed (bs : List Byte) : Assigned (takeSpeed bs) :=
  (assigned_takeNat bs).bind fun _ => assigned_ok

theorem assigned_take16 (bs : List Byte) : Assigned (take16 bs) := by unfold take16; split <;> simp [Assigned]
theorem assigned_take32 (bs : List Byte) : Assigned (take32 bs) := by unfold take32; split <;> simp [Assigned]
theorem assigned_takeBytes (n : Nat) (bs : List Byte) : Assigned (takeBytes n bs) := by
  unfold takeBytes; split <;> simp [Assigned]
theorem assigned_takePad (bs : List Byte) : Assigned (takePad bs) := by cases bs <;> simp [Assigned, takePad]

theorem assigned_takeEnable (bs : List Byte) : Assigned (takeEnable bs) := by
  cases bs with
  | nil => simp [Assigned, takeEnable]
  | cons b bs => rw [takeEnable]; split <;> simp [Assigned]

theorem assigned_takeAddr (bs : List Byte) : Assigned (takeAddr bs) := by
  unfold takeAddr
  split
  · split <;> simp [Assigned]
  · simp [Assigned]

/-- No operand's reader, and so no parser, calls a first byte unassigned. -/
theorem assigned_parse (r : Row) (bs : List Byte) : Assigned (parse r bs) := by
  cases r
  case identify | status => exact (assigned_takePad _).bind fun _ => (assigned_takeChannel _).bind fun _ => assigned_ok
  case clearStatusCmd | join | unlock | deselect | isAttached =>
    exact (assigned_takeChannel _).bind fun _ => assigned_ok
  case enableInt => exact (assigned_takeEnable _).bind fun _ => (assigned_takeChannel _).bind fun _ => assigned_ok
  case pageProgram => exact (assigned_takeAddr _).bind fun _ => (assigned_takeChannel _).bind fun _ => assigned_ok
  case pageRead =>
    exact (assigned_takeAddr _).bind fun _ => (assigned_takeChannel _).bind fun _ => (assigned_takeNat _).bind fun _ =>
      assigned_ok
  case getId | readStatus | clearStatus | waitReady | registerIntHandler =>
    exact (assigned_takeChannel _).bind fun _ => (assigned_takeSpeed _).bind fun _ => assigned_ok
  case enableInterrupt =>
    exact (assigned_takeChannel _).bind fun _ => (assigned_takeSpeed _).bind fun _ => (assigned_takeBool _).bind
      fun _ => assigned_ok
  case beginProgram =>
    exact (assigned_takeChannel _).bind fun _ => (assigned_takeSpeed _).bind fun _ => (assigned_take32 _).bind
      fun _ => assigned_ok
  case beginRead =>
    exact (assigned_takeChannel _).bind fun _ => (assigned_takeSpeed _).bind fun _ => (assigned_take32 _).bind
      fun _ => (assigned_takeNat _).bind fun _ => assigned_ok
  case decodeGeometry => exact (assigned_takeChannel _).bind fun _ => (assigned_take16 _).bind fun _ => assigned_ok
  case lock => exact (assigned_takeChannel _).bind fun _ => (assigned_takeSlot _).bind fun _ => assigned_ok
  case select =>
    exact (assigned_takeChannel _).bind fun _ => (assigned_takeSlot _).bind fun _ => (assigned_takeSpeed _).bind
      fun _ => assigned_ok
  case immWrite =>
    exact (assigned_takeChannel _).bind fun _ => (assigned_takeNat _).bind fun _ => (assigned_takeBytes _ _).bind
      fun _ => assigned_ok
  case immRead => exact (assigned_takeChannel _).bind fun _ => (assigned_takeNat _).bind fun _ => assigned_ok
  case dmaTransfer =>
    exact (assigned_takeChannel _).bind fun _ => (assigned_takeBool _).bind fun _ => (assigned_takeBool _).bind
      fun _ => (assigned_takeBool _).bind fun _ => assigned_ok

/-- Settles O5: only the lookup of the row answers that a first byte is unassigned. -/
theorem otherFirstBytesAreRefused : Obligations.OtherFirstBytesAreRefused := by
  intro k b bs
  refine Iff.trans ?_ (rowOf_eq_none_iff k b)
  rw [decode]
  cases hr : rowOf k b with
  | none => simp
  | some r => simpa using assigned_parse r bs b

/-- Settles O6: the encoder's bytes are low slices, and the readers of both formats test the bits above. -/
theorem reservedBitsSentAsZeroAndRefused : Obligations.ReservedBitsSentAsZeroAndRefused := by
  refine ⟨addrEncode_reserved, fun en => ⟨_, rfl, by cases en <;> rfl⟩, ?_, fun b rest hb => ?_⟩
  · rintro op b0 b1 b2 b3 rest (rfl | rfl) hb
    · show parse .pageProgram _ = _
      simp only [parse, takeAddr, if_neg hb]
      rfl
    · show parse .pageRead _ = _
      simp only [parse, takeAddr, if_neg hb]
      rfl
  · show parse .enableInt _ = _
    simp only [parse, takeEnable, if_neg hb]
    rfl

/-- Settles O7: the words are short, so the encoder and the decoder run on them. -/
theorem tableWordsAndCommandBytes : Obligations.TableWordsAndCommandBytes := by
  unfold Obligations.TableWordsAndCommandBytes
  decide

end Sys2Proof.CallWords

/-! ## The primitives and the main flow's accesses (R120 to R132, R69, R70)

Inside its precondition and without a bus error a primitive is one update of its channel and environment
(Laws/Bus.lean), so its answer and its frame are read off that update (`kept_update`). Outside the precondition its
lines raise in the state they began in, and the operation refuses. -/

namespace Sys2Proof.Machine

open Sys2Proof.Safety

/-! ### Answers that are one update -/

/-- The environment holds what it held: attachment, bus errors, buffers, and of the card all but its view of the span
and its status script. -/
structure Env.Holds (e f : Env) : Prop where
  attached : f.attached = e.attached
  busErrorIn : f.busErrorIn = e.busErrorIn
  buffers : f.buffers = e.buffers
  model : f.card.model = e.card.model
  cardId : f.card.cardId = e.card.cardId
  intEnable : f.card.intEnable = e.card.intEnable
  storage : f.card.storage = e.card.storage
  content : f.card.content = e.card.content

theorem Env.Holds.refl (e : Env) : e.Holds e := ⟨rfl, rfl, rfl, rfl, rfl, rfl, rfl, rfl⟩

theorem Env.Holds.trans {e f g : Env} (h : e.Holds f) (k : f.Holds g) : e.Holds g :=
  ⟨k.attached.trans h.attached, k.busErrorIn.trans h.busErrorIn, k.buffers.trans h.buffers, k.model.trans h.model,
    k.cardId.trans h.cardId, k.intEnable.trans h.intEnable, k.storage.trans h.storage, k.content.trans h.content⟩

theorem Env.Holds.newSpan {e f : Env} (h : e.Holds f) : e.Holds f.newSpan :=
  h.trans ⟨rfl, rfl, rfl, rfl, rfl, rfl, rfl, rfl⟩

theorem Env.Holds.afterSend {e f : Env} (h : e.Holds f) (c : Channel) (n : Nat) (hk : f.card.strays = false) :
    e.Holds (f.afterSend c n) := by
  obtain ⟨hstorage, hcontent, henable⟩ := Env.afterSend_keeps (c := c) (n := n) hk
  exact h.trans ⟨by simp, by simp, by simp, by simp, by simp, henable, hstorage, hcontent⟩

section
variable {c : Channel} {s : State} {x : Chan} {e : Env} {r : Ret}

theorem Env.Holds.memoryKept (h : (s.env c).Holds e) (hw : x.wbuf = (s.chan c).wbuf) (hr : x.rbuf = (s.chan c).rbuf) :
    MemoryKept c s (((s.setChan c x).setEnv c e).setRet r) := memoryKept_update hw hr h.storage h.content

theorem Env.Holds.envKept (h : (s.env c).Holds e) : EnvKept c s (((s.setChan c x).setEnv c e).setRet r) :=
  envKept_update h.attached h.busErrorIn h.buffers h.model h.cardId h.intEnable

theorem chan_update : (((s.setChan c x).setEnv c e).setRet r).chan c = x := by simp

/-- What an update of the channel and of its environment keeps where it keeps what memories and environment hold. -/
theorem kept_update (he : (s.env c).Holds e) (hw : x.wbuf = (s.chan c).wbuf) (hr : x.rbuf = (s.chan c).rbuf) :
    (((s.setChan c x).setEnv c e).setRet r).chan c = x ∧ OutsideKept c s (((s.setChan c x).setEnv c e).setRet r) ∧
      MemoryKept c s (((s.setChan c x).setEnv c e).setRet r) ∧ EnvKept c s (((s.setChan c x).setEnv c e).setRet r) :=
  ⟨chan_update, outsideKept_update, he.memoryKept hw hr, he.envKept⟩

/-- The two buffers read as before if the update leaves them. -/
theorem buffersKept_update (hw : x.wbuf = (s.chan c).wbuf := by rfl) (hr : x.rbuf = (s.chan c).rbuf := by rfl)
    (a : Nat) :
    (((s.setChan c x).setEnv c e).setRet r).byteAt .wbuf c a = s.byteAt .wbuf c a ∧
      (((s.setChan c x).setEnv c e).setRet r).byteAt .rbuf c a = s.byteAt .rbuf c a := by
  simp [State.byteAt, hw, hr, Memory.initial_wbuf, Memory.initial_rbuf]

theorem outsideKept_setRet : OutsideKept c s (s.setRet r) := by
  simpa using outsideKept_update (c := c) (s := s) (x := s.chan c) (e := s.env c) (r := r)

theorem memoryKept_setRet : MemoryKept c s (s.setRet r) := by
  simpa using memoryKept_update (c := c) (s := s) (x := s.chan c) (e := s.env c) (r := r) rfl rfl rfl rfl

/-- An answer that tells the caller something and does nothing. -/
theorem answers_setRet {o : Host.Outcome State Fault Refusal} (ho : o = .next (s.setRet r)) :
    ∃ t, o = .next t ∧ t.ret = r ∧ t.chan c = s.chan c ∧ t.env c = s.env c ∧ OutsideKept c s t ∧ MemoryKept c s t :=
  ⟨_, ho, by simp, by simp, by simp, outsideKept_setRet, memoryKept_setRet⟩

end

/-! ### The primitives inside their preconditions -/

section
variable {c : Channel} {s : State} (ha : s.aborted = false)
include ha

theorem execUnlock_clear : exec (.unlock c) s = finish s (busUnlock c s).unit :=
  congrArg (finish s) (unlessAborted_clear _ ha)

theorem execSelect_clear {slot : DeviceSlot} {sp : Speed} :
    exec (.select c slot sp) s = finish s (busSelect c slot sp s).unit :=
  congrArg (finish s) (unlessAborted_clear _ ha)

theorem execDeselect_clear : exec (.deselect c) s = finish s (busDeselect c s).unit :=
  congrArg (finish s) (unlessAborted_clear _ ha)

theorem execImmWrite_clear {bytes : List Byte} : exec (.immWrite c bytes) s = finish s (busImmWrite c bytes s).unit :=
  congrArg (finish s) (unlessAborted_clear _ ha)

theorem execImmRead_clear {n : Nat} : exec (.immRead c n) s =
    finish s ((busImmRead c n s).andThen fun bytes t => .ok (.bytes bytes) t) :=
  congrArg (finish s) (unlessAborted_clear _ ha)

theorem execDmaTransfer_clear {kind : DmaKind} {dir : DmaDir} {len : Nat} :
    exec (.dmaTransfer c kind dir len) s = finish s (busDmaIssue c kind dir len s).unit :=
  congrArg (finish s) (unlessAborted_clear _ ha)

end

/-- Settles O13: the lock is freed by one update of the channel. -/
theorem unlockFreesTheLock : Obligations.UnlockFreesTheLock := by
  intro c s ha hlock hsel
  rw [execUnlock_clear ha, busUnlock_ok hlock hsel]
  exact finish_setChan_ok rfl rfl

/-- Settles O14: the selection is one update, and the card begins a span. -/
theorem selectOpensATransaction : Obligations.SelectOpensATransaction := by
  intro c slot sp s ha hb hlock hsel
  rw [execSelect_clear ha, busSelect_ok hlock hsel hb]
  exact ⟨_, rfl, rfl, kept_update (Env.Holds.refl _).newSpan rfl rfl⟩

/-- Settles O15: the end of the span is one update, and the card forgets it. -/
theorem deselectEndsTheTransaction : Obligations.DeselectEndsTheTransaction := by
  intro c s ha hb hsel hdma
  have hfree : (s.chan c).dma = none ∨ (s.chan c).dma.any (·.performed) = true :=
    hdma.imp_right fun ⟨d, hd, hp⟩ => by simp [hd, hp]
  rw [execDeselect_clear ha, busDeselect_ok hsel hfree hb]
  exact ⟨_, rfl, rfl, kept_update (Env.Holds.refl _).newSpan rfl rfl⟩

/-- Settles O16: the event and the card's reception are one update, which leaves both buffers. -/
theorem immWriteSendsItsBytes : Obligations.ImmWriteSendsItsBytes := by
  intro c bytes s ⟨ha, hsel, hdma⟩ hb
  rw [execImmWrite_clear ha, busImmWrite_ok hsel hdma hb]
  exact ⟨_, rfl, rfl, by simp, by simp, outsideKept_update, buffersKept_update⟩

/-- The unconstrained card sends free values, a fresh one for each byte (R75). -/
theorem Env.getElem?_answers_unconstrained {e : Env} {c : Channel} {n k : Nat} (h : e.card.model = .unconstrained)
    (hk : k < n) : (e.answers c n)[k]? = some (Config.freeByte c (e.draws + k)) := by
  simp [Env.answers, List.getElem?_range hk, Env.answer, h, Env.draw]

/-- Settles O17: the event and the card's sending are one update; what the card holds it keeps unless it strays. -/
theorem immReadReturnsTheCardsBytes : Obligations.ImmReadReturnsTheCardsBytes := by
  intro c n s ⟨ha, hsel, hdma⟩ hb hn
  refine ⟨Env.answers_length .., ?_⟩
  rw [execImmRead_clear ha, busImmRead_ok hn hsel hdma hb]
  refine ⟨_, rfl, rfl, by simp, by simp, outsideKept_update, buffersKept_update,
    fun hfree k hk => Env.getElem?_answers_unconstrained hfree hk, fun hk => ?_⟩
  have hholds := (Env.Holds.refl (s.env c)).afterSend c n hk
  exact ⟨hholds.memoryKept rfl rfl, hholds.envKept⟩

/-- Settles O18: the record and the event are one update of the channel. -/
theorem dmaTransferIsIssued : Obligations.DmaTransferIsIssued := by
  intro c kind s ⟨ha, hsel, hdma⟩ hb hfsm halign
  rw [execDmaTransfer_clear ha, busDmaIssue_ok halign hsel hdma hfsm hb]
  exact ⟨_, congrArg _ (GeometryDecoder.setChan_setRet_eq_update c s _ _), rfl, kept_update (Env.Holds.refl _) rfl rfl⟩

/-- Settles O20: the answer is the environment's, and it is all that is written. -/
theorem isAttachedAnswersTheEnvironment : Obligations.IsAttachedAnswersTheEnvironment := by
  intro c s
  exact ⟨_, rfl, rfl, by simp, outsideKept_setRet, memoryKept_setRet⟩

/-- Settles O34: the three ends of the wait tell the main flow something and do nothing. -/
theorem joinWaitsForBothFlags : Obligations.JoinWaitsForBothFlags := by
  intro c s
  refine ⟨fun ha => ?_, fun ha hp hr => answers_setRet ?_, fun ha hflag => answers_setRet ?_⟩
  · show execJoin c s = _
    rw [execJoin, if_pos ha]
  · show execJoin c s = _
    simp [execJoin, ha, Chan.bothDone, hp, hr, State.returnValue]
  · have hdone : (s.chan c).bothDone = false := by rw [Chan.bothDone, Bool.and_eq_false_iff]; exact hflag
    show execJoin c s = _
    simp [execJoin, ha, hdone, State.await]

/-! ### The primitives outside their preconditions -/

/-- Lines that raise where they began, and raise a refusal, refuse the operation. -/
theorem finish_unit_refused {s : State} {r : Res Unit} (h : r = .raise .errProtocol .nothing s) :
    finish s r.unit = .next (s.takeException .errProtocol .nothing) := by
  rw [h]
  exact congrArg _ (raiseEnd_same ..)

section
variable {c : Channel} {s : State}

theorem busUnlock_refused (h : ¬ ((s.chan c).lockOwner ≠ none ∧ (s.chan c).sel = none)) :
    busUnlock c s = .raise .errProtocol .nothing s := if_neg h

theorem busSelect_refused {slot : DeviceSlot} {sp : Speed}
    (h : ¬ ((s.chan c).lockOwner = some slot ∧ (s.chan c).sel = none)) :
    busSelect c slot sp s = .raise .errProtocol .nothing s := if_neg h

theorem busDeselect_refused (h : (s.chan c).sel = none ∨ ∃ d, (s.chan c).dma = some d ∧ d.performed = false) :
    busDeselect c s = .raise .errProtocol .nothing s := by
  refine if_neg ?_
  rintro ⟨hsel, hdma⟩
  obtain h | ⟨d, hd, hp⟩ := h
  · exact hsel h
  · simp [hd, hp] at hdma

theorem busImmWrite_refused {bytes : List Byte} (h : (s.chan c).sel = none ∨ (s.chan c).dma ≠ none) :
    busImmWrite c bytes s = .raise .errProtocol .nothing s :=
  if_neg fun ⟨hsel, hdma⟩ => h.elim hsel fun hd => hd hdma

theorem busImmRead_refused {n : Nat} (h : (s.chan c).sel = none ∨ (s.chan c).dma ≠ none) :
    busImmRead c n s = .raise .errProtocol .nothing s :=
  if_neg fun ⟨_, hsel, hdma⟩ => h.elim hsel fun hd => hd hdma

theorem busDmaIssue_refused {kind : DmaKind} {dir : DmaDir} {len : Nat} (h : (s.chan c).sel = none ∨
    (s.chan c).dma ≠ none ∨ (s.chan c).fsm ≠ .awaitingDMA ∨ (s.env c).aligned kind = false) :
    busDmaIssue c kind dir len s = .raise .errProtocol .nothing s := by
  refine if_neg ?_
  rintro ⟨-, halign, hsel, hdma, hfsm⟩
  simp [halign, hsel, hdma, hfsm] at h

end

theorem finish_ifFit_refused {s : State} {ok : Bool} {k : Res Value}
    (h : ok = true → k = .raise .errProtocol .nothing s) :
    finish s (ifFit ok s k) = .next (s.takeException .errProtocol .nothing) := by
  cases ok with
  | false => exact congrArg _ (raiseEnd_same ..)
  | true => rw [ifFit_true, h rfl]; exact congrArg _ (raiseEnd_same ..)

/-- Settles O21: each primitive tests its precondition first, and a card command begins with an immediate write. -/
theorem preconditionsAreRefused : Obligations.PreconditionsAreRefused := by
  intro c s ha
  refine ⟨fun h => ?_, fun slot sp h => ?_, fun h => ?_, fun h => ⟨fun bytes => ?_, fun n => ?_⟩, fun kind h => ?_,
    fun h => ?_, fun h o => ?_, fun h o n => ?_⟩
  · rw [execUnlock_clear ha]; exact finish_unit_refused (busUnlock_refused h)
  · rw [execSelect_clear ha]; exact finish_unit_refused (busSelect_refused h)
  · rw [execDeselect_clear ha]; exact finish_unit_refused (busDeselect_refused h)
  · rw [execImmWrite_clear ha]; exact finish_unit_refused (busImmWrite_refused h)
  · rw [execImmRead_clear ha, busImmRead_refused h]; exact congrArg _ (raiseEnd_same ..)
  · rw [execDmaTransfer_clear ha]; exact finish_unit_refused (busDmaIssue_refused h)
  · have hwrite := fun bytes => busImmWrite_refused (bytes := bytes) h
    refine ⟨?_, ?_, ?_, fun en => ?_, fun o => ?_, fun o n => ?_⟩
    · show execIdentify c s = _
      simp [execIdentify, ha, wireIdentify, hwrite]
    · show execStatus c s = _
      simp [execStatus, ha, wireStatus, hwrite]
    · show execClearStatusCmd c s = _
      simp [execClearStatusCmd, ha, wireClearStatus, hwrite]
    · show execEnableInt c en s = _
      simp [execEnableInt, ha, wireEnableInt, hwrite]
    · exact finish_ifFit_refused fun _ => by simp [ha, wirePageProgram, hwrite]
    · exact finish_ifFit_refused fun _ => by simp [ha, wirePageRead, hwrite]
  · exact finish_ifFit_refused fun hfit => by simp [h] at hfit
  · exact finish_ifFit_refused fun hfit => by simp [h] at hfit

/-! ### Splitting an immediate write (R125, R131) -/

theorem traceNorm_cons_congr (e : BusEvent) {es fs : List BusEvent} (h : traceNorm es = traceNorm fs) :
    traceNorm (e :: es) = traceNorm (e :: fs) := by
  cases e <;> simp only [traceNorm, h]

/-- At the end of a trace two immediate writes are one. -/
theorem traceNorm_append_split (es : List BusEvent) (xs ys : List Byte) :
    traceNorm (es ++ [.immWrite (xs ++ ys)]) = traceNorm (es ++ [.immWrite xs, .immWrite ys]) := by
  induction es with
  | nil => by_cases hx : xs = [] <;> by_cases hy : ys = [] <;> simp [traceNorm, hx, hy]
  | cons e es ih => exact traceNorm_cons_congr e ih

theorem wireSpans_append_split (es : List BusEvent) (xs ys : List Byte) (open? : Option (List Byte)) :
    wireSpans open? (es ++ [.immWrite (xs ++ ys)]) = wireSpans open? (es ++ [.immWrite xs, .immWrite ys]) := by
  induction es generalizing open? with
  | nil => cases open? <;> simp [wireSpans]
  | cons e es ih => cases open? <;> cases e <;> simp [wireSpans, ih]

/-- Settles O23: the two traces differ in the last writes only, which both forms of R131 join. -/
theorem splittingAnImmediateWriteIsNotObservable : Obligations.SplittingAnImmediateWriteIsNotObservable := by
  intro c xs ys s t u v ⟨ha, hsel, hdma⟩ hb ht hu hv
  rw [execImmWrite_clear ha, busImmWrite_ok hsel hdma hb] at ht hu
  cases ht
  cases hu
  rw [execImmWrite_clear (by simpa using ha), busImmWrite_ok (by simpa using hsel) (by simpa using hdma)
    (by simpa using hb)] at hv
  cases hv
  simp [traceNorm_append_split, wireSpans_append_split]

/-! ### Canonical memories -/

/-- No address below the bound is listed. -/
theorem Memory.lookup_eq_none {sp : Space} {lo d : Nat} {m : List Host.Cell} (h : Memory.wfFrom sp lo m = true)
    (hd : d < lo) : Memory.lookup m d = none := by
  induction m generalizing lo with
  | nil => rfl
  | cons p m ih =>
    obtain ⟨b, w⟩ := p
    obtain ⟨hlo, -, hm⟩ := Memory.wfFrom_cons.mp h
    rw [Memory.lookup, if_neg (by omega)]
    exact ih hm (by omega)

/-- Below every listed address a canonical memory reads as unlisted. -/
theorem Memory.read_eq_unlisted {sp : Space} {lo d : Nat} {m : List Host.Cell} (h : Memory.wfFrom sp lo m = true)
    (hd : d < lo) : Memory.read sp m d = Memory.unlisted sp d := by
  rw [Memory.read, Memory.lookup_eq_none h hd]

theorem Memory.read_cons_self (sp : Space) (b : Nat) (w : Byte) (m : List Host.Cell) :
    Memory.read sp ((b, w) :: m) b = some w := by simp [Memory.read, Memory.lookup]

theorem Memory.read_cons_ne {sp : Space} {b d : Nat} {w : Byte} {m : List Host.Cell} (h : d ≠ b) :
    Memory.read sp ((b, w) :: m) d = Memory.read sp m d := by simp [Memory.read, Memory.lookup, h]

/-- The first listed address of a canonical memory does not read as unlisted, so another one that reads alike lists an
address there or below. -/
theorem Memory.wfFrom_le_of_read_eq {sp : Space} {lo b : Nat} {w : Byte} {m n : List Host.Cell}
    (hm : Memory.wfFrom sp b ((b, w) :: m) = true) (hn : Memory.wfFrom sp lo n = true)
    (h : Memory.read sp ((b, w) :: m) b = Memory.read sp n b) : lo ≤ b := by
  by_contra hlt
  obtain ⟨-, hw, -⟩ := Memory.wfFrom_cons.mp hm
  rw [Memory.read_cons_self, Memory.read_eq_unlisted hn (by omega)] at h
  exact hw h.symm

theorem Memory.eq_of_read_eq {sp : Space} {lo lo' : Nat} {m n : List Host.Cell} (hm : Memory.wfFrom sp lo m = true)
    (hn : Memory.wfFrom sp lo' n = true) (h : ∀ a, Memory.read sp m a = Memory.read sp n a) : m = n := by
  induction m generalizing lo lo' n with
  | nil =>
    cases n with
    | nil => rfl
    | cons q n =>
      obtain ⟨b, w⟩ := q
      obtain ⟨-, hw, hn⟩ := Memory.wfFrom_cons.mp hn
      have hb := h b
      rw [Memory.read_cons_self] at hb
      exact absurd hb hw
  | cons p m ih =>
    obtain ⟨a, v⟩ := p
    obtain ⟨hlo, hv, hm⟩ := Memory.wfFrom_cons.mp hm
    cases n with
    | nil =>
      have ha := h a
      rw [Memory.read_cons_self] at ha
      exact absurd ha.symm hv
    | cons q n =>
      obtain ⟨b, w⟩ := q
      obtain ⟨hlo', hw, hn⟩ := Memory.wfFrom_cons.mp hn
      have hab : a = b := by
        have hle := Memory.wfFrom_le_of_read_eq (Memory.wfFrom_cons.mpr ⟨le_rfl, hv, hm⟩)
          (Memory.wfFrom_cons.mpr ⟨le_rfl, hw, hn⟩) (h a)
        have hge := Memory.wfFrom_le_of_read_eq (Memory.wfFrom_cons.mpr ⟨le_rfl, hw, hn⟩)
          (Memory.wfFrom_cons.mpr ⟨le_rfl, hv, hm⟩) (h b).symm
        omega
      subst hab
      have hvw : v = w := by
        have ha := h a
        rw [Memory.read_cons_self, Memory.read_cons_self] at ha
        exact Option.some.inj ha
      rw [hvw, ih hm hn fun d => ?_]
      by_cases hd : d = a
      · rw [hd, Memory.read_eq_unlisted hm (Nat.lt_succ_self a), Memory.read_eq_unlisted hn (Nat.lt_succ_self a)]
      · rw [← Memory.read_cons_ne hd, h d, Memory.read_cons_ne hd]

/-- Settles O49: both memories list the same first address, and so on along the lists. -/
theorem equalReadsMeanEqualMemories : Obligations.EqualReadsMeanEqualMemories :=
  fun _ _ _ hm hn h => Memory.eq_of_read_eq hm hn h

/-! ### Accesses of the main flow (R69, R70) -/

theorem atIndex_ok {sp : Space} {i : Nat} {t : State} (h : i < Memory.size sp) : atIndex sp i t = .next t := if_pos h

theorem atIndex_fault {sp : Space} {i : Nat} {t : State} (h : Memory.size sp ≤ i) :
    atIndex sp i t = .fault (.noSuchAddress sp i) := if_neg (Nat.not_lt.mpr h)

theorem State.byteAt_wbuf (s : State) (c : Channel) (a : Nat) :
    s.byteAt .wbuf c a = Memory.byteAt .wbuf (BitVec.ofNat 8) (s.chan c).wbuf a := rfl

theorem State.byteAt_rbuf (s : State) (c : Channel) (a : Nat) :
    s.byteAt .rbuf c a = Memory.byteAt .rbuf (Config.rbufInit c) (s.chan c).rbuf a := rfl

theorem State.byteAt_card (s : State) (c : Channel) (a : Nat) : s.byteAt .card c a = (s.env c).card.byteAt c a := rfl

theorem Memory.byteAt_write (sp : Space) (base : Nat → Byte) (m : List Host.Cell) (i : Nat) (v : Byte) (a : Nat) :
    Memory.byteAt sp base (Memory.write sp m i v) a = if a = i then v else Memory.byteAt sp base m a := by
  split
  · next h => rw [h, Memory.byteAt_write_self]
  · next h => exact Memory.byteAt_write_ne _ _ _ _ h

section
variable {c : Channel} {s : State} (ha : s.aborted = false)
include ha

theorem runAccess_loadRbuf {i : Nat} : runAccess (.loadRbuf c i) s = atIndex .rbuf i (loadRbuf c i s) := by
  simp [runAccess, ha]
theorem runAccess_loadWbuf {i : Nat} :
    runAccess (.loadWbuf c i) s = atIndex .wbuf i (s.returnValue (.bytes [s.byteAt .wbuf c i])) := by
  simp [runAccess, ha]
theorem runAccess_storeWbuf {i : Nat} {v : Byte} :
    runAccess (.storeWbuf c i v) s = atIndex .wbuf i (storeWbuf c i v s) := by simp [runAccess, ha]
theorem runAccess_storeRbuf {i : Nat} {v : Byte} :
    runAccess (.storeRbuf c i v) s = atIndex .rbuf i (storeRbuf c i v s) := by simp [runAccess, ha]
theorem runAccess_loadFlags : runAccess (.loadFlags c) s =
    .next (s.returnValue (.flags (s.chan c).programDone (s.chan c).readDone)) := by simp [runAccess, ha]
theorem runAccess_loadGeom : runAccess (.loadGeom c) s = .next (s.returnValue (.geom (s.chan c).geom)) := by
  simp [runAccess, ha]

end

/-- A load in the window of R69 is a draw. -/
theorem loadRbuf_early {c : Channel} {i : Nat} {s : State} (hi : i < 512) (hr : (s.chan c).readDone = false) :
    loadRbuf c i s = (s.setEnv c ((s.env c).drawn 1)).returnValue (.bytes [(s.env c).draw c 0]) := if_pos ⟨hi, hr⟩

/-- Any other load is the stored byte. -/
theorem loadRbuf_plain {c : Channel} {i : Nat} {s : State} (h : 512 ≤ i ∨ (s.chan c).readDone = true) :
    loadRbuf c i s = s.returnValue (.bytes [s.byteAt .rbuf c i]) :=
  if_neg fun ⟨hi, hr⟩ => h.elim (Nat.not_le.mpr hi) fun hdone => by simp [hdone] at hr

/-- A store changes one byte of the read buffer, whatever it records. -/
theorem storeRbuf_byteAt (c : Channel) (i : Nat) (v : Byte) (s : State) (a : Nat) :
    (storeRbuf c i v s).byteAt .rbuf c a = if a = i then v else s.byteAt .rbuf c a := by
  simp only [storeRbuf_eq, State.byteAt_rbuf, State.returnValue_chan, State.setChan_chan, Chan.storedRbuf]
  exact Memory.byteAt_write ..

theorem storeRbuf_outsideKept (c : Channel) (i : Nat) (v : Byte) (s : State) : OutsideKept c s (storeRbuf c i v s) := by
  have h := outsideKept_update (c := c) (s := s) (x := (s.chan c).storedRbuf i v) (e := s.env c) (r := .returned .unit)
  rwa [← GeometryDecoder.setChan_setRet_eq_update] at h

/-- Settles O45: each access is its line of R69 or R70 under the index test of its buffer. -/
theorem earlyReadsOfTheReadBufferAreDraws : Obligations.EarlyReadsOfTheReadBufferAreDraws := by
  intro c s ha
  have hrbuf : Memory.size .rbuf = 512 + Config.readExtra := rfl
  have hwbuf : Memory.size .wbuf = 128 := rfl
  refine ⟨fun i hi => ?_, fun i hlo hhi => ?_, fun i hi => ?_, fun i v hi hplain => ?_, runAccess_loadFlags ha,
    runAccess_loadGeom ha, fun i v hi => ⟨?_, ?_⟩, fun i v hi => ⟨?_, ?_⟩⟩
  · refine ⟨_, (runAccess_loadRbuf ha).trans (atIndex_ok (by omega)), ?_⟩
    cases hr : (s.chan c).readDone with
    | false =>
      rw [loadRbuf_early hi hr]
      exact ⟨fun d => by simp, fun _ => ⟨rfl, by simp [Env.drawn]⟩, fun h => by cases h⟩
    | true =>
      rw [loadRbuf_plain (.inr hr)]
      exact ⟨fun d => by simp, fun h => (by cases h), fun _ => rfl⟩
  · rw [runAccess_loadRbuf ha, atIndex_ok (by omega), loadRbuf_plain (.inl hlo)]
  · rw [runAccess_loadWbuf ha, atIndex_ok (by omega)]
  · refine ⟨_, (runAccess_storeRbuf ha).trans (atIndex_ok (by omega)), rfl, storeRbuf_byteAt c i v s, ?_, ?_,
      storeRbuf_outsideKept c i v s⟩
    · have hrace : (s.chan c).readDone = true ∨ Config.readBufLen ≤ i := hplain
      simp [storeRbuf_eq, Chan.storedRbuf, hrace]
    · simp [storeRbuf_eq]
  · rw [runAccess_loadRbuf ha, atIndex_fault (by omega)]
  · rw [runAccess_storeRbuf ha, atIndex_fault (by omega)]
  · rw [runAccess_loadWbuf ha, atIndex_fault (by omega)]
  · rw [runAccess_storeWbuf ha, atIndex_fault (by omega)]

/-- Settles O42: each guard is tested before the first line. -/
theorem disabledAgentsDoNothing : Obligations.DisabledAgentsDoNothing :=
  fun _ _ => ⟨dmaPerform_disabled, dmaComplete_disabled, cardInterrupt_disabled⟩

/-! ### Steps of the main flow and of the environment (R9) -/

theorem step_of_mainFlowNext {s : State} (h : MainFlowNext s) : step s = mainStep s.dispatched := by
  unfold step
  split
  · next hg => rw [State.dispatched_of_nil hg]
  · next a g hg =>
    obtain rfl : a = .mainFlow := by simpa [MainFlowNext, hg] using h
    rw [State.dispatched_of_cons hg]
    rfl

theorem step_of_agenda {s : State} {a : AgentStep} {g : List AgentStep} (h : s.agenda = a :: g) :
    step s = agentStep a (s.setAgenda g) := by simp [step, h]

theorem fetchCall_ok {k : DecodeSpace} {words : List Byte} {i : Instr} (h : decodeCall k words = .ok i)
    (hwf : i.wf = true) : fetchCall k words = .ok i := by simp [fetchCall, h, hwf]

theorem fetchCall_illFormed {k : DecodeSpace} {words : List Byte} {i : Instr} (h : decodeCall k words = .ok i)
    (hwf : i.wf = false) : fetchCall k words = .error .illFormed := by simp [fetchCall, h, hwf]

theorem fetchCall_undecodable {k : DecodeSpace} {words : List Byte} {e : DecodeError}
    (h : decodeCall k words = .error e) : fetchCall k words = .error (.undecodable e) := by simp [fetchCall, h]

section
variable {s t : State} {k : DecodeSpace} {words : List Byte} {rest : List MainItem} {i : Instr}

theorem mainStep_call (hp : s.program = .call k words :: rest) (hi : fetchCall k words = .ok i)
    (hm : i.mainFlow = true) (h : exec i s = .next t) :
    mainStep s = .next (if t.ret = .waiting then t else t.retire) := by
  simp [mainStep, hp, hi, hm, h, State.retireUnlessWaiting]

theorem mainStep_outOfContext (hp : s.program = .call k words :: rest) (hi : fetchCall k words = .ok i)
    (hm : i.mainFlow = false) : mainStep s = .refused .outOfContext := by simp [mainStep, hp, hi, hm]

theorem mainStep_refused {r : Refusal} (hp : s.program = .call k words :: rest) (hi : fetchCall k words = .error r) :
    mainStep s = .refused r := by simp [mainStep, hp, hi]

theorem mainStep_access {a : Access} (hp : s.program = .access a :: rest) :
    (∀ t, runAccess a s = .next t → mainStep s = .next t.retire) ∧
      ∀ f, runAccess a s = .fault f → mainStep s = .fault f :=
  ⟨fun t h => by simp [mainStep, hp, h], fun f h => by simp [mainStep, hp, h]⟩

theorem mainStep_idle (hp : s.program = []) : mainStep s = .next s := by simp [mainStep, hp]

end

/-- Settles O50: a step is that of the agent whose turn it is, and the main flow's is that of its next item. -/
theorem stepRunsTheDecodedOperation : Obligations.StepRunsTheDecodedOperation := by
  refine ⟨fun s i k words rest hp hi hwf => ⟨fun hm => ⟨fun hg t ht => ?_, fun g hg t ht => ?_⟩, fun hm hnext => ?_⟩,
    fun s i k words g hg hi hwf hm => ?_, fun s t c g => ⟨fun hg => ?_, fun hg ht => ?_, fun hg ht => ?_⟩,
    fun s a rest g hp => ⟨fun hg => ?_, fun hg => ?_⟩,
    fun s k words rest hp hnext => ⟨fun e he => ?_, fun i hi hwf => ?_⟩,
    fun s g hp => ⟨fun hg => ?_, fun hg => ?_⟩, fun s c g => ⟨fun b hg => ?_, fun k hg => ?_⟩⟩
  · rw [step_of_mainFlowNext (.inl hg), State.dispatched_of_nil hg]
    exact mainStep_call hp (fetchCall_ok hi hwf) hm ht
  · rw [step_of_agenda hg]
    exact mainStep_call (by simpa using hp) (fetchCall_ok hi hwf) hm ht
  · rw [step_of_mainFlowNext hnext]
    exact mainStep_outOfContext hp (fetchCall_ok hi hwf) hm
  · rw [step_of_agenda hg]
    simp [agentStep, benchStep, fetchCall_ok hi hwf, hm]
  · rw [step_of_agenda hg]
    rfl
  · rw [step_of_agenda hg] at ht
    exact eventStep_inv ht
  · rw [step_of_agenda hg] at ht
    exact eventStep_inv ht
  · rw [step_of_mainFlowNext (.inl hg), State.dispatched_of_nil hg]
    exact mainStep_access hp
  · rw [step_of_agenda hg]
    exact mainStep_access (by simpa using hp)
  · rw [step_of_mainFlowNext hnext]
    exact mainStep_refused hp (fetchCall_undecodable he)
  · rw [step_of_mainFlowNext hnext]
    exact mainStep_refused hp (fetchCall_illFormed hi hwf)
  · rw [step_of_mainFlowNext (.inl hg), State.dispatched_of_nil hg]
    exact mainStep_idle hp
  · rw [step_of_agenda hg]
    exact mainStep_idle (by simpa using hp)
  · rw [step_of_agenda hg]
    simp [agentStep, setAttached]
  · rw [step_of_agenda hg]
    simp [agentStep, armBusError]

/-! ### Reset (R55, R240) -/

/-- Settles O59: both channels are `Chan.reset`, whose write buffer lists nothing and so reads as the ramp. -/
theorem resetLeavesTheBlockIdle : Obligations.ResetLeavesTheBlockIdle := by
  refine ⟨rfl, fun c => ?_⟩
  have hc : State.reset.chan c = Chan.reset := by cases c <;> rfl
  simp only [State.byteAt_wbuf, State.mem_rbuf, hc]
  exact ⟨rfl, rfl, rfl, rfl, rfl, rfl, rfl, rfl, rfl, fun _ _ => rfl, fun _ => rfl⟩

theorem memOk_reset : MemOk Chan.reset Env.reset :=
  ⟨.nil _, .nil _, .nil _, by simp [Chan.reset], by simp [Chan.reset], fun _ => rfl, fun _ => rfl⟩

/-- Settles O60: at reset both channels rest and their memories list nothing. -/
theorem invariantsHoldAtReset : Obligations.InvariantsHoldAtReset := by
  refine ⟨protocolInv_of_reset rfl rfl (by simp [NoBench, State.reset]), memoryInv_iff.mpr fun c => ?_,
    rfl, rfl, ⟨rfl, rfl, rfl, rfl, rfl⟩, rfl, rfl, rfl, rfl, rfl⟩
  cases c <;> exact memOk_reset

end Sys2Proof.Machine

/-! ## Commands, spans and transfers (R140 to R150, R182 to R190)

At the start of a span the card takes a command's bytes and holds what it held (`Env.Holds.receive`). So a card command
is one update of its channel and environment, a host operation is the same update between an opening and a closing, and
a begin operation leaves the span open with its DMA issued. -/

namespace Sys2Proof.Machine

open Sys2Proof.Safety

/-! ### What the card makes of a command -/

theorem strayCmd_of_head {cmd : List Byte} {op : Byte} (h : cmd.head? = some op) :
    strayCmd cmd = (rowOf .wire op).isNone := by simp [strayCmd, h]

/-- A span that has begun goes on with its opcode. -/
theorem Card.head_cmdAfter {k : Card} {op : Byte} (h : k.cmd.head? = some op) (bs : List Byte) :
    (k.cmdAfter bs).head? = some op := by
  cases hc : k.cmd with
  | nil => simp [hc] at h
  | cons b cmd => simpa [Card.cmdAfter, hc] using h

/-- A command but ENABLE_INT leaves what the environment holds, unless it is a PAGE_PROGRAM with its data. -/
theorem Env.Holds.receive {e f : Env} {c : Channel} {bs : List Byte} (h : e.Holds f) (op : Byte)
    (hop : (f.card.cmdAfter bs).head? = some op) (hrow : (rowOf .wire op).isNone = false) (henable : op ≠ 0x81)
    (hstore : op ≠ 0xF2 ∨ f.card.received + bs.length ≤ 5) : e.Holds (f.receive c bs) := by
  have hk : strayCmd (f.card.cmdAfter bs) = false := (strayCmd_of_head hop).trans hrow
  have hstorage : (f.receive c bs).card.storage = f.card.storage := by
    obtain hne | hshort := hstore
    · exact Env.receive_storage_other hk (by simpa [hop] using hne)
    · exact Env.receive_storage_short hk hshort
  exact h.trans ⟨by simp, by simp, by simp, by simp, by simp,
    Env.receive_intEnable_other hk (by simpa [hop] using henable), hstorage, Env.receive_content hk⟩

/-- The card has seen nothing of the span yet. -/
structure Env.Fresh (e : Env) : Prop where
  cmd : e.card.cmd = []
  received : e.card.received = 0

theorem Env.fresh_newSpan (e : Env) : e.newSpan.Fresh := ⟨rfl, rfl⟩

section
variable {e : Env} {c : Channel} (h : e.Fresh)
include h

theorem Env.Fresh.cmdAfter (bs : List Byte) : e.card.cmdAfter bs = bs.take 5 := by simp [Card.cmdAfter, h.cmd]

theorem Env.Fresh.cmd_receive (bs : List Byte) : (e.receive c bs).card.cmd = bs.take 5 := by simp [h.cmd]

/-- A command at the start of a span is known if its first byte is an opcode. -/
theorem Env.Fresh.receive_known {op : Byte} (bs : List Byte) (hrow : (rowOf .wire op).isNone = false) :
    e.receive c (op :: bs) = e.accept c (op :: bs) :=
  Env.receive_known (by rw [h.cmdAfter]; exact (strayCmd_of_head (op := op) rfl).trans hrow)

theorem Env.Fresh.strays_receive {op : Byte} (bs : List Byte) (hrow : (rowOf .wire op).isNone = false) :
    (e.receive c (op :: bs)).card.strays = false := by
  rw [Env.receive_strays, h.cmdAfter]
  exact (strayCmd_of_head (op := op) rfl).trans hrow

/-- A command of at most five bytes at the start of a span leaves what the environment holds, but for ENABLE_INT. -/
theorem Env.Fresh.holds_receive {op : Byte} {bs : List Byte} (hrow : (rowOf .wire op).isNone = false)
    (henable : op ≠ 0x81) (hlen : bs.length ≤ 4) : e.Holds (e.receive c (op :: bs)) :=
  (Env.Holds.refl e).receive op (by rw [h.cmdAfter]; rfl) hrow henable (.inr (by simp [h.received]; omega))

theorem Env.Fresh.sent_identify : (e.receive c cmdIdentify).card.sent = 0 := by
  rw [cmdIdentify, h.receive_known _ (by rfl)]
  simp [Env.accept, h.received, h.cmdAfter]

theorem Env.Fresh.sent_status : (e.receive c cmdStatus).card.sent = 0 := by
  rw [cmdStatus, h.receive_known _ (by rfl)]
  simp [Env.accept, h.received, h.cmdAfter]

theorem Env.Fresh.strays_identify : (e.receive c cmdIdentify).card.strays = false := h.strays_receive _ (by rfl)

theorem Env.Fresh.strays_status : (e.receive c cmdStatus).card.strays = false := h.strays_receive _ (by rfl)

/-- The two bytes of an IDENTIFY answer (R76, R77): the reference card's word, or free values. -/
theorem Env.Fresh.identify_answers : ∃ b0 b1, (e.receive c cmdIdentify).answers c 2 = [b0, b1] ∧
    (e.card.model = .reference → b0 ++ b1 = e.card.cardId) ∧
    (e.card.model = .unconstrained → ∃ m, e.draws ≤ m ∧ b0 = Config.freeByte c m ∧ b1 = Config.freeByte c (m + 1)) := by
  refine ⟨_, _, Env.answers_two _ c, fun hm => ?_, fun hm => ⟨_, Env.receive_draws_le e c cmdIdentify, ?_⟩⟩
  · have hword : e.card.cardId.extractLsb' 8 8 ++ e.card.cardId.extractLsb' 0 8 = e.card.cardId := by
      rw [BitVec.extractLsb'_append_extractLsb'_eq_extractLsb' (by decide), BitVec.extractLsb'_eq_self]
    have hop : (e.receive c cmdIdentify).card.cmd.head? = some 0x85 := by rw [h.cmd_receive]; rfl
    have hlen : 2 ≤ (e.receive c cmdIdentify).card.received := by simp [h.received, cmdIdentify]
    simp [Env.answer, hm, Card.refAnswer, hop, hlen, h.sent_identify, hword, -Env.receive_cmd, -Env.receive_received]
  · simp [Env.answer, hm, Env.draw]

/-- The byte of a STATUS answer (R76, R77): the reference card's next status, which it has then used, or a free
value. -/
theorem Env.Fresh.status_answers : ∃ st, (e.receive c cmdStatus).answers c 1 = [st] ∧
    (e.card.model = .reference → st = e.card.statusScript.next c) ∧
    ((e.receive c cmdStatus).afterSend c 1).card.statusScript = e.card.statusScript.rest ∧
    (e.card.model = .unconstrained → ∃ m, e.draws ≤ m ∧ st = Config.freeByte c m) := by
  have hop : (e.receive c cmdStatus).card.cmd.head? = some 0x83 := by rw [h.cmd_receive]; rfl
  have hlen : 2 ≤ (e.receive c cmdStatus).card.received := by simp [h.received, cmdStatus]
  refine ⟨_, Env.answers_one _ c, fun hm => ?_, ?_, fun hm => ⟨_, Env.receive_draws_le e c cmdStatus, ?_⟩⟩
  · simp [Env.answer, hm, Card.refAnswer, hop, hlen, h.sent_status, -Env.receive_cmd, -Env.receive_received]
  · rw [Env.afterSend_known h.strays_status]
    simp [Env.send, hop, hlen, h.sent_status, -Env.receive_cmd, -Env.receive_received]
  · simp [Env.answer, hm, Env.draw]

theorem Env.Fresh.holds_identify : e.Holds ((e.receive c cmdIdentify).afterSend c 2) :=
  (h.holds_receive (by rfl) (by decide) (by decide)).afterSend c 2 h.strays_identify

theorem Env.Fresh.holds_status : e.Holds ((e.receive c cmdStatus).afterSend c 1) :=
  (h.holds_receive (by rfl) (by decide) (by decide)).afterSend c 1 h.strays_status

theorem Env.Fresh.holds_clearStatus : e.Holds (e.receive c cmdClearStatus) :=
  h.holds_receive (by rfl) (by decide) (by decide)

theorem Env.Fresh.holds_pageProgram (o : Word) : e.Holds (e.receive c (cmdPageProgram o)) :=
  h.holds_receive (by rfl) (by decide) (by simp [addrEncode])

theorem Env.Fresh.holds_pageRead (o : Word) (bs : List Byte) :
    e.Holds ((e.receive c (cmdPageRead o)).receive c bs) :=
  (h.holds_receive (by rfl) (by decide) (by simp [addrEncode])).receive 0x52
    (Card.head_cmdAfter (by rw [h.cmd_receive]; rfl) bs) (by rfl) (by decide) (.inl (by decide))

/-- ENABLE_INT makes the card's interrupt enable its operand, on both card models (R148). -/
theorem Env.Fresh.intEnable_enableInt (en : Bool) : (e.receive c (cmdEnableInt en)).card.intEnable = en := by
  rw [cmdEnableInt, h.receive_known _ (by rfl)]
  cases en <;> simp [Env.accept, h.received, h.cmdAfter, enableAfter]

theorem Env.Fresh.storage_enableInt (en : Bool) : (e.receive c (cmdEnableInt en)).card.storage = e.card.storage ∧
    (e.receive c (cmdEnableInt en)).card.content = e.card.content := by
  obtain ⟨hstorage, hcontent, -⟩ := Env.receive_command (c := c) (bs := cmdEnableInt en) h.cmd h.received
    ((strayCmd_of_head (op := 0x81) rfl).trans (by rfl)) (by simp [cmdEnableInt])
  exact ⟨hstorage, hcontent⟩

end

/-! ### Card commands on the wire (R145 to R150) -/

/-- Settles O24: each command is one update, and its result is what the card answers. -/
theorem identifyAndStatusOnTheWire : Obligations.IdentifyAndStatusOnTheWire := by
  intro c s ⟨ha, hsel, hdma⟩ hb hcmd hreceived
  have hfresh : (s.env c).Fresh := ⟨hcmd, hreceived⟩
  constructor
  · obtain ⟨b0, b1, hbytes, href, hfree⟩ := hfresh.identify_answers (c := c)
    have hexec : exec (.identify c) s = finish s ((wireIdentify c s).andThen fun w t => .ok (.id w) t) :=
      congrArg (finish s) (unlessAborted_clear _ ha)
    rw [hexec, wireIdentify_ok hsel hdma hb, hbytes, idOfResponse_pair]
    exact ⟨_, b0, b1, rfl, rfl, href, hfree, kept_update hfresh.holds_identify rfl rfl⟩
  · obtain ⟨st, hbytes, href, hscript, hfree⟩ := hfresh.status_answers (c := c)
    have hexec : exec (.status c) s = finish s ((wireStatus c s).andThen fun st t => .ok (.status st) t) :=
      congrArg (finish s) (unlessAborted_clear _ ha)
    rw [hexec, wireStatus_ok hsel hdma hb, hbytes]
    exact ⟨_, st, rfl, rfl, fun hm => ⟨href hm, by simpa using hscript⟩, hfree,
      kept_update hfresh.holds_status rfl rfl⟩

/-- Settles O25: each command is one update, and ENABLE_INT's changes the card's enable only. -/
theorem clearStatusAndEnableIntOnTheWire : Obligations.ClearStatusAndEnableIntOnTheWire := by
  intro c s ⟨ha, hsel, hdma⟩ hb hcmd hreceived
  have hfresh : (s.env c).Fresh := ⟨hcmd, hreceived⟩
  refine ⟨?_, fun en => ?_⟩
  · have hexec : exec (.clearStatusCmd c) s = finish s (wireClearStatus c s).unit :=
      congrArg (finish s) (unlessAborted_clear _ ha)
    rw [hexec, wireClearStatus, busImmWrite_ok hsel hdma hb]
    exact ⟨_, rfl, rfl, kept_update hfresh.holds_clearStatus rfl rfl⟩
  · have hexec : exec (.enableInt c en) s = finish s (wireEnableInt c en s).unit :=
      congrArg (finish s) (unlessAborted_clear _ ha)
    rw [hexec, wireEnableInt, busImmWrite_ok hsel hdma hb]
    obtain ⟨hstorage, hcontent⟩ := hfresh.storage_enableInt (c := c) en
    have henable := hfresh.intEnable_enableInt (c := c) en
    exact ⟨_, rfl, rfl, chan_update, by simpa using henable,
      by simp, by simp, by simp, outsideKept_update, memoryKept_update rfl rfl hstorage hcontent⟩

/-- Settles O26: the command and the issue of its DMA are one update. -/
theorem pageProgramOnTheWire : Obligations.PageProgramOnTheWire := by
  intro c o s ⟨ha, hsel, hdma⟩ hb hcmd hreceived halign
  have hfresh : (s.env c).Fresh := ⟨hcmd, hreceived⟩
  have hexec : exec (.pageProgram c o) s = finish s (wirePageProgram c (o.setWidth 32) s).unit := by
    show execPageProgram c o s = _
    rw [execPageProgram, halign, ifFit_true, unlessAborted_clear _ ha]
  rw [hexec, wirePageProgram_ok halign hsel hdma hb]
  exact ⟨_, rfl, rfl, kept_update (hfresh.holds_pageProgram _) rfl rfl⟩

/-- The dummy bytes of a PAGE_READ, as the statements write them. -/
theorem dummyBytes_eq (s : State) (c : Channel) (n : Nat) :
    dummyBytes s c n = (List.range n).map fun k => s.byteAt .rbuf c (512 + k) := rfl

/-- Settles O27: the command, the dummy bytes and the issue of its DMA are one update. -/
theorem pageReadOnTheWire : Obligations.PageReadOnTheWire := by
  intro c o n s ⟨ha, hsel, hdma⟩ hb hcmd hreceived
  have hfresh : (s.env c).Fresh := ⟨hcmd, hreceived⟩
  refine ⟨fun hn halign => ?_, fun hn => finish_ifFit_refused fun hfit => ?_⟩
  · have hexec : exec (.pageRead c o n) s = finish s (wirePageRead c (o.setWidth 32) n s).unit := by
      have hfit : (dummiesFit n && (s.env c).aligned .read) = true := by simp [dummiesFit, hn, halign]
      show execPageRead c o n s = _
      rw [execPageRead, hfit, ifFit_true, unlessAborted_clear _ ha]
    rw [hexec, wirePageRead_ok halign hsel hdma hb]
    exact ⟨_, rfl, rfl, kept_update (hfresh.holds_pageRead _ _) rfl rfl⟩
  · simp [dummiesFit] at hfit
    omega

/-! ### Host operations on a free channel (R140 to R144) -/

theorem dma_of_channelFree {c : Channel} {s : State} (h : ChannelFree c s) : (s.chan c).dma = none := by
  obtain ⟨-, -, -, -, -, hdma⟩ := h
  exact hdma

section
variable {c : Channel} {sp : Speed} {s : State} (hfree : ChannelFree c s) (hb : NoBusError c s)
include hfree hb

theorem openedSpan_ready : ((openedSpan c sp s).chan c).sel ≠ none ∧ ((openedSpan c sp s).chan c).dma = none ∧
    NoBusError c (openedSpan c sp s) ∧ (openedSpan c sp s).env c = (s.env c).newSpan := by
  obtain ⟨-, -, -, -, -, hdma⟩ := hfree
  refine ⟨?_, ?_, ?_, ?_⟩ <;> simp [openedSpan, hdma, NoBusError]
  exact hb

/-- One IDENTIFY span. -/
theorem inSpan_identify {b0 b1 : Byte} (hbytes : ((s.env c).newSpan.receive c cmdIdentify).answers c 2 = [b0, b1]) :
    inSpan c sp s (wireIdentify c) = .ok (b0 ++ b1) ((s.setChan c { s.chan c with
      trace := (s.chan c).trace ++
        [.lock .card, .select .card sp, .immWrite [0x85, 0x00], .immRead [b0, b1], .deselect, .unlock] }).setEnv c
      (((s.env c).newSpan.receive c cmdIdentify).afterSend c 2).newSpan) := by
  obtain ⟨hsel, hdma, hnoerr, henv⟩ := openedSpan_ready (sp := sp) hfree hb
  have hwire := wireIdentify_ok hsel hdma hnoerr
  rw [henv, hbytes, idOfResponse_pair] at hwire
  exact inSpan_free hfree hb (by simpa using hb) hwire

/-- One STATUS span. -/
theorem inSpan_status {st : Byte} (hbytes : ((s.env c).newSpan.receive c cmdStatus).answers c 1 = [st]) :
    readStatusOnce c sp s = .ok st ((s.setChan c { s.chan c with
      trace := (s.chan c).trace ++
        [.lock .card, .select .card sp, .immWrite [0x83, 0x00], .immRead [st], .deselect, .unlock] }).setEnv c
      (((s.env c).newSpan.receive c cmdStatus).afterSend c 1).newSpan) := by
  obtain ⟨hsel, hdma, hnoerr, henv⟩ := openedSpan_ready (sp := sp) hfree hb
  have hwire := wireStatus_ok hsel hdma hnoerr
  rw [henv, hbytes] at hwire
  exact inSpan_free hfree hb (by simpa using hb) hwire

/-- One span that only writes. -/
theorem inSpan_immWrite (bytes : List Byte) :
    inSpan c sp s (busImmWrite c bytes) = .ok () ((s.setChan c { s.chan c with
      trace := (s.chan c).trace ++
        [.lock .card, .select .card sp, .immWrite bytes, .deselect, .unlock] }).setEnv c
      ((s.env c).newSpan.receive c bytes).newSpan) := by
  obtain ⟨hsel, hdma, hnoerr, henv⟩ := openedSpan_ready (sp := sp) hfree hb
  have hwire := busImmWrite_ok (bytes := bytes) hsel hdma hnoerr
  rw [henv] at hwire
  exact inSpan_free hfree hb (by simpa using hb) hwire

end

section
variable (e : Env) (c : Channel)

theorem Env.holds_identifySpan : e.Holds ((e.newSpan.receive c cmdIdentify).afterSend c 2).newSpan :=
  ((Env.Holds.refl e).newSpan.trans e.fresh_newSpan.holds_identify).newSpan

theorem Env.holds_statusSpan : e.Holds ((e.newSpan.receive c cmdStatus).afterSend c 1).newSpan :=
  ((Env.Holds.refl e).newSpan.trans e.fresh_newSpan.holds_status).newSpan

theorem Env.holds_clearStatusSpan : e.Holds (e.newSpan.receive c cmdClearStatus).newSpan :=
  ((Env.Holds.refl e).newSpan.trans e.fresh_newSpan.holds_clearStatus).newSpan

end

/-- Settles O28: the span is one update, and the word is what the card answers in it. -/
theorem getIdReturnsTheWord : Obligations.GetIdReturnsTheWord := by
  intro c sp s hfree hb
  obtain ⟨b0, b1, hbytes, href, hdraw⟩ := (s.env c).fresh_newSpan.identify_answers (c := c)
  rw [exec, execGetId, inSpan_identify hfree hb hbytes]
  exact ⟨_, b0, b1, rfl, rfl, href, hdraw, kept_update ((s.env c).holds_identifySpan c) rfl rfl⟩

/-- Settles O29: the span is one update, and the byte is what the card answers in it. -/
theorem readStatusReturnsTheByte : Obligations.ReadStatusReturnsTheByte := by
  intro c sp s hfree hb
  obtain ⟨st, hbytes, href, hscript, hdraw⟩ := (s.env c).fresh_newSpan.status_answers (c := c)
  rw [exec, execReadStatus, inSpan_status hfree hb hbytes]
  exact ⟨_, st, rfl, rfl, fun hm => ⟨href hm, by simpa using hscript⟩, hdraw,
    kept_update ((s.env c).holds_statusSpan c) rfl rfl⟩

/-- Settles O30: each span is one update, and ENABLE_INTERRUPT's changes the card's enable only. -/
theorem clearStatusAndEnableInterruptSpans : Obligations.ClearStatusAndEnableInterruptSpans := by
  intro c sp s hfree hb
  refine ⟨?_, fun en => ?_⟩
  · rw [exec, execClearStatus, show wireClearStatus c = busImmWrite c cmdClearStatus from rfl, inSpan_immWrite hfree hb]
    exact ⟨_, rfl, rfl, kept_update ((s.env c).holds_clearStatusSpan c) rfl rfl⟩
  · rw [exec, execEnableInterrupt, show wireEnableInt c en = busImmWrite c (cmdEnableInt en) from rfl,
      inSpan_immWrite hfree hb]
    have hfresh := (s.env c).fresh_newSpan
    obtain ⟨hstorage, hcontent⟩ := hfresh.storage_enableInt (c := c) en
    have henable := hfresh.intEnable_enableInt (c := c) en
    exact ⟨_, rfl, rfl, chan_update, by simpa using henable,
      by simp, by simp, by simp, outsideKept_update, memoryKept_update rfl rfl hstorage hcontent⟩

end Sys2Proof.Machine

/-! ## Transfers, waits and agents (R128, R182 to R190, R213 to R217)

An opening that a test ends raises in the state it began in; one that no test ends is one update. A waiting operation
leaves the call where it was, so a run of its steps is its first step again. -/

namespace Sys2Proof.Machine

open Sys2Proof.Safety

/-! ### Operations that a test ends (R140, R182, R220) -/

section
variable {c : Channel} {sp : Speed} {s : State}

/-- The five operations that are one span and no transfer. -/
def spanInstrs (c : Channel) (sp : Speed) (en : Bool) : List Instr :=
  [.getId c sp, .readStatus c sp, .clearStatus c sp, .enableInterrupt c sp en, .waitReady c sp]

/-- What is raised while a span is opened or used ends the operation. -/
theorem exec_spanInstr_raise {en : Bool} {i : Instr} {e : ResultCode} {info : Info} {t : State}
    (hi : i ∈ spanInstrs c sp en) (h : openSpan c sp s = .raise e info t) :
    exec i s = .next (raiseEnd s e info t) := by
  have hspan : ∀ {α : Type} (body : State → Res α), inSpan c sp s body = .raise e info t := fun body => by
    simp [inSpan, h]
  obtain rfl | rfl | rfl | rfl | rfl : i = .getId c sp ∨ i = .readStatus c sp ∨ i = .clearStatus c sp ∨
    i = .enableInterrupt c sp en ∨ i = .waitReady c sp := by simpa [spanInstrs] using hi
  · rw [exec, execGetId, hspan]; rfl
  · rw [exec, execReadStatus, readStatusOnce, hspan]; rfl
  · rw [exec, execClearStatus, hspan]; rfl
  · rw [exec, execEnableInterrupt, hspan]; rfl
  · rw [exec, execWaitReady, readStatusOnce, hspan]

variable {o : Word} {n : Nat} {kind : DmaKind}

/-- The operand checks of a begin operation (R65 item 1, R184). -/
def beginFits (n : Nat) (e : Env) : DmaKind → Bool
  | .program => e.aligned .program
  | .read => dummiesFit n && e.aligned .read

theorem beginFits_of {e : Env} (hn : n ≤ Config.readExtra) (hk : e.aligned kind = true) :
    beginFits n e kind = true := by
  cases kind <;> simp [beginFits, dummiesFit, hn, hk]

theorem exec_beginInstr_eq : exec (beginInstr c sp o n kind) s = finish s (ifFit (beginFits n (s.env c) kind) s
    ((openBegin c sp kind s).andThen fun _ t => beginWire c o n kind t).unit) := by cases kind <;> rfl

theorem exec_beginInstr_of_fits (hfit : beginFits n (s.env c) kind = true) :
    exec (beginInstr c sp o n kind) s =
      finish s ((openBegin c sp kind s).andThen fun _ t => beginWire c o n kind t).unit := by
  rw [exec_beginInstr_eq, hfit, ifFit_true]

theorem exec_beginInstr_misfit (hfit : beginFits n (s.env c) kind = false) :
    exec (beginInstr c sp o n kind) s = .next (s.takeException .errProtocol .nothing) := by
  rw [exec_beginInstr_eq]
  exact finish_ifFit_refused fun h => by simp [hfit] at h

/-- What is raised while a begin operation opens its span ends the operation. -/
theorem exec_beginInstr_raise {e : ResultCode} {info : Info} {t : State} (hfit : beginFits n (s.env c) kind = true)
    (h : openBegin c sp kind s = .raise e info t) :
    exec (beginInstr c sp o n kind) s = .next (raiseEnd s e info t) := by
  rw [exec_beginInstr_of_fits hfit, h]
  rfl

theorem openSpan_empty (ha : s.aborted = false) (hat : (s.env c).attached = false) :
    openSpan c sp s = .raise .errNotAttached (.channel c) s := by
  rw [openSpan, unlessAborted_clear _ ha, if_pos hat]

theorem openSpan_held (ha : s.aborted = false) (hat : (s.env c).attached = true) (hl : (s.chan c).lockOwner ≠ none) :
    openSpan c sp s = .raise .errBusy (.channel c) s := by
  rw [openSpan, unlessAborted_clear _ ha, busLock_held hl]
  simp [hat]

theorem openBegin_empty (ha : s.aborted = false) (hat : (s.env c).attached = false) :
    openBegin c sp kind s = .raise .errNotAttached (.channel c) s := by
  rw [openBegin, unlessAborted_clear _ ha, if_pos hat]

theorem openBegin_pending (ha : s.aborted = false) (hat : (s.env c).attached = true)
    (hf : (s.chan c).flag kind = false) : openBegin c sp kind s = .raise .errBusy (.channel c) s := by
  rw [openBegin, unlessAborted_clear _ ha]
  simp [hat, hf]

end

/-- The seven operations that open a transaction. -/
theorem mem_opening {c : Channel} {sp : Speed} {en : Bool} {o : Word} {n : Nat} {i : Instr}
    (h : i ∈ [.getId c sp, .readStatus c sp, .clearStatus c sp, .enableInterrupt c sp en, .waitReady c sp,
      .beginProgram c sp o, .beginRead c sp o n]) :
    i ∈ spanInstrs c sp en ∨ ∃ kind, i = beginInstr c sp o n kind := by
  rw [show ([.getId c sp, .readStatus c sp, .clearStatus c sp, .enableInterrupt c sp en, .waitReady c sp,
    .beginProgram c sp o, .beginRead c sp o n] : List Instr) =
    spanInstrs c sp en ++ [.beginProgram c sp o, .beginRead c sp o n] from rfl, List.mem_append] at h
  exact h.imp_right exists_beginInstr

/-- Settles O31: an opening tests the mark, the card, the flag and the lock in this order, before it writes anything. -/
theorem rejectionsChangeNothing : Obligations.RejectionsChangeNothing := by
  intro c sp en o n s i hn hprogram hread hi
  obtain hi | ⟨kind, rfl⟩ := mem_opening hi
  · have hraise := fun e info (h : openSpan c sp s = .raise e info s) =>
      (exec_spanInstr_raise hi h).trans (congrArg _ (raiseEnd_same ..))
    refine ⟨fun ha => hraise _ _ (openSpan_aborted ha), fun ha hat => hraise _ _ (openSpan_empty ha hat),
      fun ha hat hbusy => hraise _ _ (openSpan_held ha hat ?_)⟩
    have hprog : i ≠ .beginProgram c sp o := by rintro rfl; simp [spanInstrs] at hi
    have hrd : i ≠ .beginRead c sp o n := by rintro rfl; simp [spanInstrs] at hi
    simpa [hprog, hrd] using hbusy
  · have hfit : beginFits n (s.env c) kind = true := beginFits_of hn (by cases kind <;> assumption)
    have hraise := fun e info (h : openBegin c sp kind s = .raise e info s) =>
      (exec_beginInstr_raise (o := o) hfit h).trans (congrArg _ (raiseEnd_same ..))
    refine ⟨fun ha => hraise _ _ (openBegin_aborted ha), fun ha hat => hraise _ _ (openBegin_empty ha hat),
      fun ha hat hbusy => hraise _ _ ?_⟩
    obtain hl | hf := hbusy
    · exact openBegin_held ha hat hl
    · exact openBegin_pending ha hat (by cases kind <;> simpa [beginInstr, Chan.flag] using hf)

/-! ### Begin operations on a free channel (R183, R184) -/

/-- The channel of a begin operation that has returned (R183, R184). -/
def begunChan (sp : Speed) (kind : DmaKind) (sent : List BusEvent) (x : Chan) : Chan :=
  { x.setFlag kind false with
    lockOwner := some .card
    sel := some ⟨.card, sp⟩
    fsm := .awaitingDMA
    dma := some (Dma.ofKind kind false)
    trace := x.trace ++ ([.lock .card, .select .card sp] ++ sent ++ [.dmaIssue kind kind.dir kind.len]) }

section
variable {c : Channel} {sp : Speed} {o : Word} {n : Nat} {s : State} (hfree : ChannelFree c s) (hb : NoBusError c s)
include hfree hb

theorem exec_beginProgram_free (hflag : (s.chan c).programDone = true) (hk : (s.env c).aligned .program = true) :
    exec (.beginProgram c sp o) s = .next (((s.setChan c (begunChan sp .program
      [.immWrite (0xF2 :: addrEncode o)] (s.chan c))).setEnv c
        ((s.env c).newSpan.receive c (cmdPageProgram o))).setRet (.returned .unit)) := by
  have hdma : (s.chan c).dma = none := dma_of_channelFree hfree
  have hexec := exec_beginInstr_of_fits (c := c) (sp := sp) (o := o) (n := 0) (s := s) (kind := .program) hk
  rw [openBegin_free (kind := .program) hfree hb hflag, Res.andThen_ok, beginWire,
    wirePageProgram_ok (by simpa using hk) (by simp) (by simp [hdma]) (by simpa [NoBusError] using hb)] at hexec
  refine hexec.trans ?_
  simp [begunChan, Dma.ofKind, State.returnValue, cmdPageProgram]
  rfl

theorem exec_beginRead_free (hflag : (s.chan c).readDone = true) (hn : n ≤ Config.readExtra)
    (hk : (s.env c).aligned .read = true) :
    exec (.beginRead c sp o n) s = .next (((s.setChan c (begunChan sp .read
      [.immWrite (0x52 :: addrEncode o), .immWrite (dummyBytes s c n)] (s.chan c))).setEnv c
        (((s.env c).newSpan.receive c (cmdPageRead o)).receive c (dummyBytes s c n))).setRet (.returned .unit)) := by
  have hdma : (s.chan c).dma = none := dma_of_channelFree hfree
  have hexec := exec_beginInstr_of_fits (c := c) (sp := sp) (o := o) (s := s) (beginFits_of (kind := .read) hn hk)
  rw [openBegin_free (kind := .read) hfree hb hflag, Res.andThen_ok, beginWire,
    wirePageRead_ok (by simpa using hk) (by simp) (by simp [hdma]) (by simpa [NoBusError] using hb),
    dummyBytes_congr (s := s) (by simp)] at hexec
  refine hexec.trans ?_
  simp [begunChan, Dma.ofKind, State.returnValue, cmdPageRead]
  rfl

end

/-- Settles O32: a misplaced buffer is tested first, and the rest is one update. -/
theorem beginProgramIssuesTheDma : Obligations.BeginProgramIssuesTheDma := by
  intro c sp o s
  refine ⟨fun hk => exec_beginInstr_misfit (n := 0) (kind := .program) hk, fun hfree hb hflag hk => ?_⟩
  rw [exec_beginProgram_free hfree hb hflag hk]
  have hholds := (Env.Holds.refl (s.env c)).newSpan.trans ((s.env c).fresh_newSpan.holds_pageProgram (c := c) o)
  exact ⟨_, rfl, rfl, kept_update hholds rfl rfl⟩

/-- Settles O33: the operands are tested first, and the rest is one update. -/
theorem beginReadIssuesTheDma : Obligations.BeginReadIssuesTheDma := by
  intro c sp o n s
  refine ⟨fun h => exec_beginInstr_misfit (kind := .read) ?_, fun hfree hb hflag hn hk => ?_⟩
  · have hfit : dummiesFit n = false ∨ (s.env c).aligned .read = false :=
      h.imp_left fun h => by simpa [dummiesFit] using h
    exact (Bool.and_eq_false_iff).mpr hfit
  · rw [exec_beginRead_free hfree hb hflag hn hk]
    have hholds := (Env.Holds.refl (s.env c)).newSpan.trans
      ((s.env c).fresh_newSpan.holds_pageRead (c := c) o (dummyBytes s c n))
    exact ⟨_, rfl, rfl, kept_update hholds rfl rfl⟩

/-! ### The waits (R189, R190, R213) -/

theorem step_call {i : Instr} {s t : State} (hg : s.agenda = []) (hcall : NextCall i s) (hm : i.mainFlow = true)
    (h : exec i s = .next t) : step s = .next (if t.ret = .waiting then t else t.retire) := by
  obtain ⟨space, words, rest, hp, hi⟩ := hcall
  rw [step_of_mainFlowNext (.inl hg), State.dispatched_of_nil hg]
  exact mainStep_call hp hi hm h

theorem run_succ {s t : State} (k : Nat) (h : step s = .next t) : core.run (k + 1) s = core.run k t := by
  have hcore : core.step s = .next t := h
  simp [Host.Core.run, hcore]

/-- Settles O35: a waiting JOIN leaves the state as it was, so every step is the first one again. -/
theorem joinHangsUntilCompletion : Obligations.JoinHangsUntilCompletion := by
  intro c s k ha hflag hg hcall
  induction k generalizing s with
  | zero => exact ⟨s, rfl, rfl, fun _ => rfl, ha⟩
  | succ k ih =>
    have hexec : exec (.join c) s = .next s.await := by
      show execJoin c s = _
      simp [execJoin, ha, hflag]
    have hstep := step_call hg hcall rfl hexec
    obtain ⟨t, hrun, hp, hkept, hat⟩ := ih s.await ha (by simpa using hflag) hg hcall
    refine ⟨t, (run_succ k (by simpa using hstep)).trans hrun, hp, fun d => (hkept d).trans (by simp), hat⟩

section
variable {c : Channel} {sp : Speed} {s : State} (hfree : ChannelFree c s) (hb : NoBusError c s)
include hfree hb

/-- One poll: a STATUS span, and what its byte says of the wait. -/
theorem exec_waitReady_free {st : Byte} (hbytes : ((s.env c).newSpan.receive c cmdStatus).answers c 1 = [st]) :
    exec (.waitReady c sp) s = .next (((s.setChan c { s.chan c with
      trace := (s.chan c).trace ++
        [.lock .card, .select .card sp, .immWrite [0x83, 0x00], .immRead [st], .deselect, .unlock] }).setEnv c
      (((s.env c).newSpan.receive c cmdStatus).afterSend c 1).newSpan).setRet
        (if st &&& Config.readyMask = 0 then .waiting else .returned .unit)) := by
  rw [exec, execWaitReady, inSpan_status hfree hb hbytes]
  by_cases h : st &&& Config.readyMask = 0
  · have hready : statusReady st = false := by simpa [statusReady] using h
    rw [if_pos h]
    simp [hready, State.await]
  · have hready : statusReady st = true := by simpa [statusReady] using h
    rw [if_neg h]
    simp [hready, State.returnValue]

end

/-- Settles O36: a poll is one update. -/
theorem waitReadyPollsOncePerStep : Obligations.WaitReadyPollsOncePerStep := by
  intro c sp s hfree hb
  obtain ⟨st, hbytes, -⟩ := (s.env c).fresh_newSpan.status_answers (c := c)
  rw [exec_waitReady_free hfree hb hbytes]
  exact ⟨_, st, rfl, rfl, kept_update ((s.env c).holds_statusSpan c) rfl rfl⟩

theorem ready_script_answers (c : Channel) : (⟨[], .ready⟩ : StatusScript).next c &&& Config.readyMask ≠ 0 := by
  simpa [StatusScript.next] using readyMask_ne_zero

/-- A poll of a card that is not ready leaves the channel free, the call where it was, and the script one status
shorter. -/
theorem step_waitReady_notReady {c : Channel} {sp : Speed} {s : State} (hfree : ChannelFree c s) (hb : NoBusError c s)
    (hmodel : (s.env c).card.model = .reference)
    (hnot : (s.env c).card.statusScript.next c &&& Config.readyMask = 0) (hg : s.agenda = [])
    (hcall : NextCall (.waitReady c sp) s) :
    ∃ t, step s = .next t ∧ ChannelFree c t ∧ NoBusError c t ∧ (t.env c).card.model = .reference ∧
      (t.env c).card.statusScript = (s.env c).card.statusScript.rest ∧ t.agenda = [] ∧ t.program = s.program := by
  obtain ⟨st, hbytes, hst, hscript, -⟩ := (s.env c).fresh_newSpan.status_answers (c := c)
  obtain rfl : st = (s.env c).card.statusScript.next c := hst hmodel
  have hholds := (s.env c).holds_statusSpan c
  have ⟨ha, hat, hl, hs, hf, hd⟩ := hfree
  refine ⟨_, (step_call hg hcall rfl (exec_waitReady_free hfree hb hbytes)).trans (by rw [if_pos (by simp [hnot])]),
    ⟨by simpa using ha, by simpa using hat, by simpa using hl, by simpa using hs, by simpa using hf, by simpa using hd⟩,
    by simpa [NoBusError] using hb, by simpa using hmodel, by simpa using hscript, by simpa using hg, by simp⟩

/-- Settles O37: a ready status ends the wait at the first poll, and a script of others is consumed one by one. -/
theorem waitReadyReturnsOnAReadyCard : Obligations.WaitReadyReturnsOnAReadyCard := by
  refine ⟨fun c sp s hfree hb hmodel hready => ?_, ready_script_answers,
    fun c sp s k hfree hb hmodel hnever hg hcall => ?_⟩
  · obtain ⟨st, hbytes, hst, hscript, -⟩ := (s.env c).fresh_newSpan.status_answers (c := c)
    obtain rfl : st = (s.env c).card.statusScript.next c := hst hmodel
    have hholds := (s.env c).holds_statusSpan c
    rw [exec_waitReady_free hfree hb hbytes]
    exact ⟨_, rfl, if_neg hready, by simp, by simpa using hscript, outsideKept_update, hholds.memoryKept rfl rfl⟩
  · induction k generalizing s with
    | zero => exact ⟨s, rfl, rfl, hfree, rfl⟩
    | succ k ih =>
      obtain ⟨t, hstep, hfree', hb', hmodel', hscript, hg', hp⟩ :=
        step_waitReady_notReady hfree hb hmodel (hnever 0) hg hcall
      have hcall' : NextCall (.waitReady c sp) t := by simpa [NextCall, hp] using hcall
      obtain ⟨u, hrun, hpu, hfreeu, hscriptu⟩ := ih t hfree' hb' hmodel'
        (fun n => by rw [hscript, ← Function.iterate_succ_apply]; exact hnever (n + 1)) hg' hcall'
      refine ⟨u, (run_succ k hstep).trans hrun, hpu.trans hp, hfreeu, ?_⟩
      rw [hscriptu, hscript, ← Function.iterate_succ_apply]

/-! ### The agents (R128, R187, R216) -/

/-- An update of the channel and of its environment that tells the caller nothing. -/
theorem update_setRet_self (s : State) (c : Channel) (x : Chan) (e : Env) :
    (s.setChan c x).setEnv c e = ((s.setChan c x).setEnv c e).setRet s.ret := by cases s; cases c <;> rfl

/-- Settles O39: the performance is one update, and unraced data is the write buffer. -/
theorem dmaPerformSendsTheWriteBuffer : Obligations.DmaPerformSendsTheWriteBuffer := by
  intro c s ha hb hraced hd
  have hperform := dmaPerform_program ha hb hd
  rw [programData_unraced hraced] at hperform
  simp only [hperform]
  refine ⟨by simp, by simp, ?_, by simp⟩
  rw [update_setRet_self]
  exact outsideKept_update

/-- Settles O40: the performance is one update, and a run of writes is read back byte by byte. -/
theorem dmaPerformFillsTheReadBuffer : Obligations.DmaPerformFillsTheReadBuffer := by
  intro c s ha hb hd
  have hlen := Env.answers_length (s.env c) c 512
  refine ⟨hlen, fun hm k hk => Env.getElem?_answers_unconstrained hm hk, ?_⟩
  rw [dmaPerform_read ha hb hd]
  generalize (s.env c).answers c 512 = data at hlen
  refine ⟨fun k hk => ?_, fun a ha => ?_, fun a => by simp [State.byteAt_wbuf], by simp, by simp, ?_, fun hk => ?_,
    by simp⟩
  · simp [State.byteAt_rbuf, Memory.byteAt_writeBytes, List.getElem?_eq_getElem (hlen ▸ hk : k < data.length)]
  · simp [State.byteAt_rbuf, Memory.byteAt_writeBytes, List.getElem?_eq_none (hlen ▸ ha : data.length ≤ a)]
  · rw [update_setRet_self]
    exact outsideKept_update
  · have hholds := (Env.Holds.refl (s.env c)).afterSend c 512 hk
    rw [update_setRet_self]
    refine ⟨hholds.envKept, fun a => ?_⟩
    simp [State.byteAt, hholds.storage, hholds.content]

theorem callbackEnv_holds (kind : DmaKind) (e : Env) : e.Holds (callbackEnv kind e) := by
  cases kind <;> exact ⟨rfl, rfl, rfl, rfl, rfl, rfl, rfl, rfl⟩

/-- Without a race the callback writes no memory. -/
theorem callbackChan_unraced {c : Channel} {kind : DmaKind} {e : Env} {x : Chan} (hw : x.wbufRaced = [])
    (hr : x.rbufRaced = []) : callbackChan c kind e x = { x.setFlag kind true with
      dma := none
      sel := none
      fsm := .idle
      lockOwner := none
      trace := x.trace ++ [.dmaComplete kind, .deselect, .unlock] } := by
  cases kind <;> simp [callbackChan, hw, hr, Memory.writeEach, Chan.setFlag]

/-- Settles O41: the callback is one update. -/
theorem dmaCompleteReleasesTheChannel : Obligations.DmaCompleteReleasesTheChannel := by
  intro c kind d s ha hb hd hk hp hsel hlock hw hr
  subst hk
  rw [dmaComplete_performed ha hb hd hp hsel hlock, callbackChan_unraced hw hr, update_setRet_self]
  obtain ⟨hchan, houtside, hmemory, henv⟩ := kept_update (x := { (s.chan c).setFlag d.kind true with
    dma := none
    sel := none
    fsm := .idle
    lockOwner := none
    trace := (s.chan c).trace ++ [.dmaComplete d.kind, .deselect, .unlock] }) (r := s.ret)
    (callbackEnv_holds d.kind (s.env c)) (by simp) (by simp)
  exact ⟨hchan, houtside, hmemory, henv, rfl⟩

/-- Settles O43: the handler's span is one update. -/
theorem cardInterruptClearsTheStatus : Obligations.CardInterruptClearsTheStatus := by
  intro c sp s ha hb hi hh hl hs hf hd
  rw [cardInterrupt_free ha hb hi hh hl hs hf hd, update_setRet_self]
  obtain ⟨hchan, houtside, hmemory, henv⟩ := kept_update (x := { s.chan c with
    trace := (s.chan c).trace ++ [.lock .card, .select .card sp, .immWrite cmdClearStatus, .deselect, .unlock] })
    (r := s.ret) ((s.env c).holds_clearStatusSpan c) rfl rfl
  exact ⟨hchan, houtside, hmemory, henv, rfl⟩

end Sys2Proof.Machine

/-! ## What operations leave alone: the two buffers and the card (R41, R42, R60) -/

namespace Sys2Proof.Machine

open Sys2Proof.Safety

/-! ### The card through a sequence of lines -/

/-- The storage and the unspecified content of a card are those of another. -/
def Card.SameCells (k₀ k : Card) : Prop := k.storage = k₀.storage ∧ k.content = k₀.content

/-- The lines end with the card in `P`, and where they raise, in `Q`. -/
def Res.CardIn {α : Type} (c : Channel) (P Q : Card → Prop) : Res α → Prop
  | .ok _ t => P (t.env c).card
  | .raise _ _ t => Q (t.env c).card

/-- The card's cells are as they were, and the span began with the opcode. -/
def Card.Began (k₀ : Card) (op : Byte) (k : Card) : Prop := k₀.SameCells k ∧ k.cmd.head? = some op

/-- The card's cells are as they were, and no span has begun. -/
def Card.Unbegun (k₀ k : Card) : Prop := k₀.SameCells k ∧ k.cmd = [] ∧ k.received = 0

section
variable {α β : Type} {c : Channel} {P P' Q : Card → Prop} {k₀ : Card} {s : State} {op : Byte}

theorem Res.CardIn.andThen {r : Res α} {k : α → State → Res β} (hr : r.CardIn c P Q)
    (hk : ∀ a t, P (t.env c).card → (k a t).CardIn c P' Q) : (r.andThen k).CardIn c P' Q := by
  cases r with
  | ok a t => exact hk a t hr
  | raise e i t => exact hr

theorem Res.CardIn.unit {r : Res Unit} (hr : r.CardIn c P Q) : r.unit.CardIn c P Q := hr.andThen fun _ _ h => h

theorem onBus_cardIn {k : State → Res α} (hs : Q (s.env c).card)
    (hk : ∀ t, (t.env c).card = (s.env c).card → (k t).CardIn c P Q) :
    (onBus c s k).CardIn c P Q := by
  obtain hr | ⟨b, hr⟩ := onBus_cases c s k
  · rw [hr]; simpa [Res.CardIn] using hs
  · rw [hr]; exact hk _ (by simp)

/-- A selection begins a span of the card. -/
theorem busSelect_unbegun {slot : DeviceSlot} {sp : Speed} (h : k₀.SameCells (s.env c).card) :
    (busSelect c slot sp s).CardIn c k₀.Unbegun k₀.SameCells := by
  unfold busSelect
  split
  · refine onBus_cardIn h fun t hcard => ?_
    simp only [Res.CardIn, State.setEnv_env, hcard]
    exact ⟨h, rfl, rfl⟩
  · exact h

theorem openSpan_unbegun {sp : Speed} (h : k₀.SameCells (s.env c).card) :
    (openSpan c sp s).CardIn c k₀.Unbegun k₀.SameCells := by
  unfold openSpan unlessAborted
  split
  · exact h
  split
  · exact h
  by_cases hl : (s.chan c).lockOwner = none
  · rw [busLock_free hl]; exact busSelect_unbegun (by simpa using h)
  · rw [busLock_held hl]; exact h

theorem openBegin_unbegun {sp : Speed} {kind : DmaKind} (h : k₀.SameCells (s.env c).card) :
    (openBegin c sp kind s).CardIn c k₀.Unbegun k₀.SameCells := by
  unfold openBegin unlessAborted
  split
  · exact h
  split
  · exact h
  split
  · exact h
  by_cases hl : (s.chan c).lockOwner = none
  · rw [busLock_free hl]; exact busSelect_unbegun (by simpa using h)
  · rw [busLock_held hl]; exact h

/-- A write in a span that begins with an opcode stores nothing, unless it is a PAGE_PROGRAM with its data. -/
theorem busImmWrite_began {bytes : List Byte} (h : k₀.SameCells (s.env c).card)
    (hop : ((s.env c).card.cmdAfter bytes).head? = some op) (hrow : (rowOf .wire op).isNone = false)
    (hstore : op ≠ 0xF2 ∨ (s.env c).card.received + bytes.length ≤ 5) :
    (busImmWrite c bytes s).CardIn c (k₀.Began op) k₀.SameCells := by
  unfold busImmWrite
  split
  · refine onBus_cardIn h fun t hcard => ?_
    have hk : strayCmd ((t.env c).card.cmdAfter bytes) = false := by rw [hcard, strayCmd_of_head hop, hrow]
    have hcells : ((t.env c).receive c bytes).card.storage = (t.env c).card.storage := by
      obtain hne | hshort := hstore
      · exact Env.receive_storage_other hk (by simpa [hcard, hop] using hne)
      · exact Env.receive_storage_short hk (by rw [hcard]; exact hshort)
    simp only [Res.CardIn, State.setEnv_env]
    refine ⟨⟨hcells.trans (hcard ▸ h.1), (Env.receive_content hk).trans (hcard ▸ h.2)⟩, ?_⟩
    rw [Env.receive_cmd, hcard]
    exact hop
  · exact h

/-- A command at the start of a span. -/
theorem busImmWrite_command {bs : List Byte} (h : k₀.Unbegun (s.env c).card) (hrow : (rowOf .wire op).isNone = false)
    (hlen : bs.length ≤ 4) : (busImmWrite c (op :: bs) s).CardIn c (k₀.Began op) k₀.SameCells := by
  obtain ⟨hcells, hcmd, hreceived⟩ := h
  exact busImmWrite_began hcells (by simp [Card.cmdAfter, hcmd]) hrow (.inr (by simp [hreceived]; omega))

theorem busImmRead_began {n : Nat} (h : k₀.Began op (s.env c).card) (hrow : (rowOf .wire op).isNone = false) :
    (busImmRead c n s).CardIn c (k₀.Began op) k₀.SameCells := by
  unfold busImmRead
  split
  · refine onBus_cardIn h.1 fun t hcard => ?_
    have hk : (t.env c).card.strays = false := by rw [hcard, Card.strays, strayCmd_of_head h.2, hrow]
    obtain ⟨hstorage, hcontent, -⟩ := Env.afterSend_keeps (c := c) (n := n) hk
    simp only [Res.CardIn, State.setEnv_env]
    exact ⟨⟨hstorage.trans (hcard ▸ h.1.1), hcontent.trans (hcard ▸ h.1.2)⟩, by
      rw [Env.afterSend_cmd, hcard]; exact h.2⟩
  · exact h.1

theorem busDmaIssue_cells {kind : DmaKind} {dir : DmaDir} {len : Nat} (h : k₀.SameCells (s.env c).card) :
    (busDmaIssue c kind dir len s).CardIn c k₀.SameCells k₀.SameCells := by
  unfold busDmaIssue
  split
  · exact onBus_cardIn h fun t hcard => by simpa [Res.CardIn, hcard] using h
  · exact h

theorem closeSpan_cells (h : k₀.SameCells (s.env c).card) : (closeSpan c s).CardIn c k₀.SameCells k₀.SameCells := by
  have hdeselect : (busDeselect c s).CardIn c k₀.SameCells k₀.SameCells := by
    unfold busDeselect
    split
    · refine onBus_cardIn h fun t hcard => ?_
      simp only [Res.CardIn, State.setEnv_env, hcard]
      exact h
    · exact h
  refine hdeselect.andThen fun _ t ht => ?_
  unfold busUnlock
  split
  · simpa [Res.CardIn] using ht
  · exact ht

theorem inSpan_cells {sp : Speed} {body : State → Res α}
    (hb : ∀ t, (s.env c).card.Unbegun (t.env c).card →
      (body t).CardIn c (s.env c).card.SameCells (s.env c).card.SameCells) :
    (inSpan c sp s body).CardIn c (s.env c).card.SameCells (s.env c).card.SameCells :=
  (openSpan_unbegun ⟨rfl, rfl⟩).andThen fun _ t ht => (hb t ht).andThen fun _ _ h =>
    (closeSpan_cells h).andThen fun _ _ h => h

theorem Res.CardIn.mono {r : Res α} (hr : r.CardIn c P Q) (h : ∀ k, P k → P' k) : r.CardIn c P' Q := by
  cases r with
  | ok a t => exact h _ hr
  | raise e i t => exact hr

theorem wireIdentify_cells (h : k₀.Unbegun (s.env c).card) :
    (wireIdentify c s).CardIn c k₀.SameCells k₀.SameCells :=
  (busImmWrite_command (op := 0x85) h (by rfl) (by decide)).andThen fun _ _ h =>
    (busImmRead_began h (by rfl)).andThen fun _ _ h => h.1

theorem wireStatus_cells (h : k₀.Unbegun (s.env c).card) : (wireStatus c s).CardIn c k₀.SameCells k₀.SameCells :=
  (busImmWrite_command (op := 0x83) h (by rfl) (by decide)).andThen fun _ _ h =>
    (busImmRead_began h (by rfl)).andThen fun _ _ h => h.1

theorem wireClearStatus_cells (h : k₀.Unbegun (s.env c).card) :
    (wireClearStatus c s).CardIn c k₀.SameCells k₀.SameCells :=
  (busImmWrite_command (op := 0x89) h (by rfl) (by decide)).mono fun _ h => h.1

theorem wireEnableInt_cells {en : Bool} (h : k₀.Unbegun (s.env c).card) :
    (wireEnableInt c en s).CardIn c k₀.SameCells k₀.SameCells :=
  (busImmWrite_command (op := 0x81) h (by rfl) (by simp)).mono fun _ h => h.1

theorem beginWire_cells {o : Word} {n : Nat} {kind : DmaKind} (h : k₀.Unbegun (s.env c).card) :
    (beginWire c o n kind s).CardIn c k₀.SameCells k₀.SameCells := by
  cases kind with
  | program =>
    exact (busImmWrite_command (op := 0xF2) h (by rfl) (by simp [addrEncode])).andThen fun _ _ h =>
      busDmaIssue_cells (by simpa [toAwaitingDma] using h.1)
  | read =>
    exact (busImmWrite_command (op := 0x52) h (by rfl) (by simp [addrEncode])).andThen fun _ t h =>
      (busImmWrite_began (by simpa [toAwaitingDma] using h.1)
        (by simpa [toAwaitingDma] using Card.head_cmdAfter h.2 (dummyBytes t c n)) (by rfl) (.inl (by decide))).andThen
      fun _ _ h => busDmaIssue_cells h.1

end

/-- The end of an operation leaves the card's cells as its lines do. -/
theorem finish_cells {c : Channel} {s t : State} {r : Res Value} (h : finish s r = .next t)
    (hr : r.CardIn c (s.env c).card.SameCells (s.env c).card.SameCells) :
    (s.env c).card.SameCells (t.env c).card := by
  have hall : r.All fun u => (s.env c).card.SameCells (u.env c).card := by cases r <;> exact hr
  exact finish_of_all (P := fun u => (s.env c).card.SameCells (u.env c).card) h ⟨rfl, rfl⟩ hall
    fun u x hu => by simpa using hu

theorem beginInstr_cells {c : Channel} {sp : Speed} {o : Word} {n : Nat} {kind : DmaKind} {s t : State}
    (h : exec (beginInstr c sp o n kind) s = .next t) : (s.env c).card.SameCells (t.env c).card := by
  rw [exec_beginInstr_eq] at h
  refine finish_cells h ?_
  cases beginFits n (s.env c) kind with
  | false => exact ⟨rfl, rfl⟩
  | true => exact ((openBegin_unbegun ⟨rfl, rfl⟩).andThen fun _ _ h => beginWire_cells h).unit

/-- An operation of the main flow stores nothing on its card. -/
theorem exec_cells {i : Instr} {s t : State} (hm : i.mainFlow = true) (h : exec i s = .next t) :
    (s.env i.channel).card.SameCells (t.env i.channel).card := by
  cases i with
  | getId c sp => exact finish_cells h ((inSpan_cells fun _ => wireIdentify_cells).andThen fun _ _ h => h)
  | readStatus c sp => exact finish_cells h ((inSpan_cells fun _ => wireStatus_cells).andThen fun _ _ h => h)
  | clearStatus c sp => exact finish_cells h (inSpan_cells fun _ => wireClearStatus_cells).unit
  | enableInterrupt c sp en => exact finish_cells h (inSpan_cells fun _ => wireEnableInt_cells).unit
  | beginProgram c sp o => exact beginInstr_cells (n := 0) (kind := .program) h
  | beginRead c sp o n => exact beginInstr_cells (kind := .read) h
  | join c =>
    cases h
    split
    · exact ⟨by simp, by simp⟩
    · split <;> exact ⟨by simp, by simp⟩
  | waitReady c sp =>
    have hpoll := inSpan_cells (c := c) (sp := sp) (s := s) fun _ => wireStatus_cells
    cases h
    split
    · next e info u hr =>
      rw [readStatusOnce] at hr
      rw [hr] at hpoll
      exact raiseEnd_of (P := fun u => (s.env c).card.SameCells (u.env c).card) ⟨rfl, rfl⟩ hpoll
        fun u x hu => by simpa using hu
    · next st u hr =>
      rw [readStatusOnce] at hr
      rw [hr] at hpoll
      split <;> simpa [Res.CardIn, Instr.channel] using hpoll
  | decodeGeometry c id =>
    cases h
    split <;> exact ⟨by simp, by simp⟩
  | registerIntHandler c hd =>
    refine finish_cells h ?_
    unfold unlessAborted
    split
    · exact ⟨rfl, rfl⟩
    · simp [Res.CardIn, Card.SameCells]
  | isAttached c => exact finish_cells (r := .ok (.bool (s.env c).attached) s) h ⟨rfl, rfl⟩
  | _ => cases hm

theorem Instr.write_buffers (i : Instr) (x : Chan) :
    (Instr.write i x).wbuf = x.wbuf ∧ (Instr.write i x).rbuf = x.rbuf := by cases i <;> simp [Instr.write]

/-- No line of an operation writes a buffer. -/
theorem exec_buffers {i : Instr} {s t : State} (h : exec i s = .next t) (c : Channel) :
    (t.chan c).wbuf = (s.chan c).wbuf ∧ (t.chan c).rbuf = (s.chan c).rbuf := by
  obtain ⟨u, r, hu, ht⟩ := (exec_inv h).wrote
  have hchan : t.chan c = u.chan c := by obtain rfl | rfl := ht <;> simp
  rw [hchan]
  by_cases hc : c = i.channel
  · subst hc
    obtain hu | hu := hu
    · exact ⟨Chan.wbuf_of_offBus hu.offBus, Chan.rbuf_of_offBus hu.offBus⟩
    · have hoff := hu.offBus
      rw [State.setChan_chan] at hoff
      obtain ⟨hw, hr⟩ := Instr.write_buffers i (s.chan i.channel)
      exact ⟨(Chan.wbuf_of_offBus hoff).trans hw, (Chan.rbuf_of_offBus hoff).trans hr⟩
  · rw [hu.onlyOn.chan c hc]
    exact ⟨rfl, rfl⟩

/-- Settles O56: lines write no buffer, and in a span of the main flow's the card stores nothing. -/
theorem operationsWriteNoBuffer : Obligations.OperationsWriteNoBuffer := by
  intro i s t h c a
  obtain ⟨hw, hr⟩ := exec_buffers h c
  refine ⟨by rw [State.byteAt_wbuf, State.byteAt_wbuf, hw], by rw [State.byteAt_rbuf, State.byteAt_rbuf, hr],
    fun hm => ?_⟩
  by_cases hc : c = i.channel
  · subst hc
    obtain ⟨hstorage, hcontent⟩ := exec_cells hm h
    simp only [State.byteAt_card, Card.byteAt, hstorage, hcontent]
  · rw [State.byteAt_card, State.byteAt_card, (channelsAreIndependent i s t c h hc).2]

/-! ## Event bodies on different channels (R219)

A body reads and writes its own channel only, so it does not see an update of the other one (`Blind`), and without a bus
error it is itself such an update. -/

/-- An update of one channel and of its environment. -/
def State.onSide (d : Channel) (x : Chan) (e : Env) (s : State) : State := (s.setChan d x).setEnv d e

/-- The states of a result under a function. -/
def Res.mapState {α : Type} (f : State → State) : Res α → Res α
  | .ok a t => .ok a (f t)
  | .raise e i t => .raise e i (f t)

@[simp] theorem Res.mapState_ok {α : Type} (f : State → State) (a : α) (t : State) :
    (Res.ok a t).mapState f = .ok a (f t) := rfl
@[simp] theorem Res.mapState_raise {α : Type} (f : State → State) (e : ResultCode) (i : Info) (t : State) :
    (Res.raise e i t : Res α).mapState f = .raise e i (f t) := rfl

section
variable {c d : Channel} (h : c ≠ d) (x y : Chan) (e f : Env) (s : State)
include h

theorem State.onSide_chan : (s.onSide d x e).chan c = s.chan c := by
  rw [State.onSide, State.setEnv_chan, State.setChan_chan_ne _ _ _ _ h]
theorem State.onSide_env : (s.onSide d x e).env c = s.env c := by
  rw [State.onSide, State.setEnv_env_ne _ _ _ _ h, State.setChan_env]
theorem State.onSide_setChan : (s.onSide d x e).setChan c y = (s.setChan c y).onSide d x e :=
  match c, d, h with
  | .ch0, .ch1, _ => rfl
  | .ch1, .ch0, _ => rfl
theorem State.onSide_setEnv : (s.onSide d x e).setEnv c f = (s.setEnv c f).onSide d x e :=
  match c, d, h with
  | .ch0, .ch1, _ => rfl
  | .ch1, .ch0, _ => rfl
theorem State.onSide_comm : (s.onSide d x e).onSide c y f = (s.onSide c y f).onSide d x e :=
  match c, d, h with
  | .ch0, .ch1, _ => rfl
  | .ch1, .ch0, _ => rfl
theorem State.onSide_emit (ev : BusEvent) : (s.onSide d x e).emit c ev = (s.emit c ev).onSide d x e := by
  rw [State.emit, State.onSide_chan h, State.onSide_setChan h]; rfl

omit h in
theorem State.onSide_abort : (s.onSide d x e).abort = s.abort.onSide d x e := by cases d <;> rfl
omit h in
theorem State.onSide_aborted : (s.onSide d x e).aborted = s.aborted := by cases d <;> rfl

end

/-- Lines on channel `c` do not see an update of the other channel. -/
def Blind (c : Channel) {α : Type} (k : State → Res α) : Prop :=
  ∀ d, c ≠ d → ∀ x e s, k (s.onSide d x e) = (k s).mapState (State.onSide d x e)

section
variable {α β : Type} {c : Channel}

theorem Blind.andThen {k : State → Res α} {m : α → State → Res β} (hk : Blind c k) (hm : ∀ a, Blind c (m a)) :
    Blind c fun s => (k s).andThen m := by
  intro d hd x e s
  show (k (s.onSide d x e)).andThen m = ((k s).andThen m).mapState _
  rw [hk d hd]
  cases k s with
  | ok a t => exact hm a d hd x e t
  | raise e i t => rfl

theorem onBus_blind {k : State → Res α} (hk : Blind c k) : Blind c fun s => onBus c s k := by
  intro d hd x e s
  simp only [onBus, State.onSide_env hd]
  split
  · exact hk d hd x e s
  · simp [busError, State.onSide_abort]
  · rw [State.onSide_setEnv hd, hk d hd]

theorem busUnlock_blind : Blind c (busUnlock c) := by
  intro d hd x e s
  simp only [busUnlock, State.onSide_chan hd, State.onSide_setChan hd, State.onSide_emit hd]
  split <;> rfl

theorem busDeselect_blind : Blind c (busDeselect c) := by
  intro d hd x e s
  simp only [busDeselect, State.onSide_chan hd]
  split
  · refine onBus_blind (fun d hd x e s => ?_) d hd x e s
    simp only [State.onSide_chan hd, State.onSide_env hd, State.onSide_setChan hd, State.onSide_emit hd,
      State.onSide_setEnv hd, Res.mapState_ok]
  · rfl

theorem busSelect_blind {slot : DeviceSlot} {sp : Speed} : Blind c (busSelect c slot sp) := by
  intro d hd x e s
  simp only [busSelect, State.onSide_chan hd]
  split
  · refine onBus_blind (fun d hd x e s => ?_) d hd x e s
    simp only [State.onSide_chan hd, State.onSide_env hd, State.onSide_setChan hd, State.onSide_emit hd,
      State.onSide_setEnv hd, Res.mapState_ok]
  · rfl

theorem busImmWrite_blind {bytes : List Byte} : Blind c (busImmWrite c bytes) := by
  intro d hd x e s
  simp only [busImmWrite, State.onSide_chan hd]
  split
  · refine onBus_blind (fun d hd x e s => ?_) d hd x e s
    simp only [State.onSide_env hd, State.onSide_emit hd, State.onSide_setEnv hd, Res.mapState_ok]
  · rfl

theorem closeSpan_blind : Blind c (closeSpan c) := busDeselect_blind.andThen fun _ => busUnlock_blind

theorem clearStatusHandler_blind {sp : Speed} : Blind c (clearStatusHandler c sp) := by
  intro d hd x e s
  by_cases hl : (s.chan c).lockOwner = none
  · simp only [clearStatusHandler, busLock_free hl, busLock_free ((State.onSide_chan hd x e s).symm ▸ hl),
      State.onSide_chan hd, State.onSide_setChan hd]
    exact (busSelect_blind.andThen fun _ => busImmWrite_blind.andThen fun _ => closeSpan_blind) d hd x e _
  · simp only [clearStatusHandler, busLock_held hl, busLock_held ((State.onSide_chan hd x e s).symm ▸ hl),
      Res.mapState_ok]

theorem cardInterruptBody_blind : Blind c (cardInterruptBody c) := by
  intro d hd x e s
  simp only [cardInterruptBody, State.onSide_chan hd, State.onSide_env hd, State.onSide_aborted]
  split
  · rfl
  · split
    · rfl
    · exact clearStatusHandler_blind d hd x e s

theorem callbackStart_onSide {kind : DmaKind} {d : Channel} (hd : c ≠ d) (x : Chan) (e : Env) (s : State) :
    callbackStart c kind (s.onSide d x e) = (callbackStart c kind s).onSide d x e := by
  cases kind <;>
    simp only [callbackStart, settleRaces, State.onSide_chan hd, State.onSide_env hd, State.onSide_setChan hd,
      State.onSide_setEnv hd]

theorem dmaCompleteBody_blind : Blind c (dmaCompleteBody c) := by
  intro d hd x e s
  simp only [dmaCompleteBody, State.onSide_chan hd, State.onSide_aborted, callback_eq, callbackStart_onSide hd]
  split
  · rfl
  · split
    · rfl
    · exact closeSpan_blind d hd x e _

end

theorem Blind.runBody {c : Channel} {k : State → Res Unit} (hk : Blind c k) {d : Channel} (hd : c ≠ d) (x : Chan)
    (e : Env) (s : State) : State.runBody (k (s.onSide d x e)) = (State.runBody (k s)).onSide d x e := by
  rw [hk d hd]
  cases k s <;> rfl

/-! ### Without a bus error a body is an update of its channel -/

/-- `t` is `s` with channel `c` updated, and no bus error is chosen on it. -/
def Sided (c : Channel) (s t : State) : Prop := ∃ x e, e.busErrorIn = none ∧ t = s.onSide c x e

theorem Sided.refl {c : Channel} {s : State} (hb : NoBusError c s) : Sided c s s :=
  ⟨s.chan c, s.env c, hb, by simp [State.onSide]⟩

section
variable {c : Channel} {s t : State} (h : Sided c s t)
include h

theorem Sided.noBusError : (t.env c).busErrorIn = none := by
  obtain ⟨x, e, he, rfl⟩ := h
  simpa [State.onSide] using he

theorem Sided.setChan (x : Chan) : Sided c s (t.setChan c x) := by
  obtain ⟨y, e, he, rfl⟩ := h
  exact ⟨x, e, he, by simp [State.onSide]⟩

theorem Sided.setEnv (e : Env) (he : e.busErrorIn = none) : Sided c s (t.setEnv c e) := by
  obtain ⟨x, f, hf, rfl⟩ := h
  exact ⟨x, e, he, by simp [State.onSide]⟩

theorem Sided.emit (ev : BusEvent) : Sided c s (t.emit c ev) := h.setChan _

theorem busUnlock_sided : (busUnlock c t).All (Sided c s) := by
  unfold busUnlock
  split
  · exact (h.setChan _).emit _
  · exact h

theorem busDeselect_sided : (busDeselect c t).All (Sided c s) := by
  unfold busDeselect
  split
  · rw [onBus_clear _ h.noBusError]
    exact ((h.setChan _).emit _).setEnv _ h.noBusError
  · exact h

theorem busSelect_sided {slot : DeviceSlot} {sp : Speed} : (busSelect c slot sp t).All (Sided c s) := by
  unfold busSelect
  split
  · rw [onBus_clear _ h.noBusError]
    exact ((h.setChan _).emit _).setEnv _ h.noBusError
  · exact h

theorem busImmWrite_sided {bytes : List Byte} : (busImmWrite c bytes t).All (Sided c s) := by
  unfold busImmWrite
  split
  · rw [onBus_clear _ h.noBusError]
    exact (h.emit _).setEnv _ (by simpa using h.noBusError)
  · exact h

theorem closeSpan_sided : (closeSpan c t).All (Sided c s) :=
  Res.all_andThen (busDeselect_sided h) fun _ _ h => busUnlock_sided h

theorem settleRaces_sided (kind : DmaKind) : Sided c s (settleRaces c kind t) := by
  cases kind with
  | program => exact h.setChan _
  | read => exact (h.setChan _).setEnv _ h.noBusError

theorem clearStatusHandler_sided {sp : Speed} : (clearStatusHandler c sp t).All (Sided c s) := by
  by_cases hl : (t.chan c).lockOwner = none
  · rw [clearStatusHandler, busLock_free hl]
    exact Res.all_andThen (busSelect_sided (h.setChan _)) fun _ _ h =>
      Res.all_andThen (busImmWrite_sided h) fun _ _ h => closeSpan_sided h
  · rw [clearStatusHandler, busLock_held hl]
    exact h

end

theorem cardInterrupt_sided {c : Channel} {s : State} (hb : NoBusError c s) : Sided c s (cardInterrupt c s) := by
  refine State.runBody_of_all ?_
  unfold cardInterruptBody
  split
  · exact Sided.refl hb
  · split
    · exact Sided.refl hb
    · exact clearStatusHandler_sided (Sided.refl hb)

theorem dmaComplete_sided {c : Channel} {s : State} (hb : NoBusError c s) : Sided c s (dmaComplete c s) := by
  refine State.runBody_of_all ?_
  unfold dmaCompleteBody
  split
  · exact Sided.refl hb
  · split
    · exact Sided.refl hb
    · rw [callback_eq]
      exact closeSpan_sided ((settleRaces_sided (Sided.refl hb) _).setChan _)

/-- Two bodies on different channels that are updates in `s` commute there. -/
theorem Blind.comm {c d : Channel} {k m : State → Res Unit} {s : State} (hd : c ≠ d) (hk : Blind c k) (hm : Blind d m)
    (hks : Sided c s (State.runBody (k s))) (hms : Sided d s (State.runBody (m s))) :
    State.runBody (k (State.runBody (m s))) = State.runBody (m (State.runBody (k s))) := by
  obtain ⟨x, e, -, hx⟩ := hks
  obtain ⟨y, f, -, hy⟩ := hms
  calc State.runBody (k (State.runBody (m s)))
    _ = (State.runBody (k s)).onSide d y f := by rw [hy, hk.runBody hd]
    _ = (s.onSide d y f).onSide c x e := by rw [hx, State.onSide_comm hd]
    _ = State.runBody (m (State.runBody (k s))) := by rw [hx, hm.runBody hd.symm, hy]

/-- Settles O44: the bodies are blind to each other's channel, and a locked channel loses the interrupt. -/
theorem eventBodiesCommute : Obligations.EventBodiesCommute := by
  intro s h0 h1
  refine ⟨⟨?_, ?_, ?_, ?_⟩, fun c hl => by rw [cardInterrupt_disabled (.inr (.inr (.inr hl)))]⟩
  · exact Blind.comm (by decide) dmaCompleteBody_blind dmaCompleteBody_blind (dmaComplete_sided h0)
      (dmaComplete_sided h1)
  · exact Blind.comm (by decide) cardInterruptBody_blind cardInterruptBody_blind (cardInterrupt_sided h0)
      (cardInterrupt_sided h1)
  · exact Blind.comm (by decide) dmaCompleteBody_blind cardInterruptBody_blind (dmaComplete_sided h0)
      (cardInterrupt_sided h1)
  · exact Blind.comm (by decide) dmaCompleteBody_blind cardInterruptBody_blind (dmaComplete_sided h1)
      (cardInterrupt_sided h0)

end Sys2Proof.Machine

/-! ## The environment reports a bus error (R132, R214, R220)

Where the countdown stands at zero the next primitive raises `FATAL_BUS` in the state it began in, marked (`*_error`);
above zero it has its effect and the countdown is one lower (`*_tick`). -/

namespace Sys2Proof.Machine

open Sys2Proof.Safety

section
variable {c : Channel} {s : State}

/-- The environment with one primitive less to go before the bus error. -/
def Env.armed (e : Env) (k : Nat) : Env := { e with busErrorIn := some k }

@[simp] theorem Env.armed_busErrorIn (e : Env) (k : Nat) : (e.armed k).busErrorIn = some k := rfl
@[simp] theorem Env.armed_buffers (e : Env) (k : Nat) : (e.armed k).buffers = e.buffers := rfl
@[simp] theorem Env.armed_aligned (e : Env) (k : Nat) (kind : DmaKind) :
    (e.armed k).aligned kind = e.aligned kind := rfl

/-! ### The primitive that fails -/

section
variable (he : (s.env c).busErrorIn = some 0)
include he

theorem busSelect_error {slot : DeviceSlot} {sp : Speed} (hl : (s.chan c).lockOwner = some slot)
    (hs : (s.chan c).sel = none) : busSelect c slot sp s = .raise .fatalBus .nothing s.abort := by
  rw [busSelect, if_pos ⟨hl, hs⟩, onBus_error _ he]

theorem busDeselect_error (hs : (s.chan c).sel ≠ none)
    (hd : (s.chan c).dma = none ∨ (s.chan c).dma.any (·.performed) = true) :
    busDeselect c s = .raise .fatalBus .nothing s.abort := by
  rw [busDeselect, if_pos ⟨hs, hd⟩, onBus_error _ he]

theorem busImmWrite_error {bytes : List Byte} (hs : (s.chan c).sel ≠ none) (hd : (s.chan c).dma = none) :
    busImmWrite c bytes s = .raise .fatalBus .nothing s.abort := by
  rw [busImmWrite, if_pos ⟨hs, hd⟩, onBus_error _ he]

theorem busImmRead_error {n : Nat} (hn : 1 ≤ n) (hs : (s.chan c).sel ≠ none) (hd : (s.chan c).dma = none) :
    busImmRead c n s = .raise .fatalBus .nothing s.abort := by
  rw [busImmRead, if_pos ⟨hn, hs, hd⟩, onBus_error _ he]

theorem busDmaIssue_error {kind : DmaKind} (hk : (s.env c).aligned kind = true) (hs : (s.chan c).sel ≠ none)
    (hd : (s.chan c).dma = none) (hf : (s.chan c).fsm = .awaitingDMA) :
    busDmaIssue c kind kind.dir kind.len s = .raise .fatalBus .nothing s.abort := by
  rw [busDmaIssue, if_pos ⟨⟨rfl, rfl⟩, hk, hs, hd, hf⟩, onBus_error _ he]

theorem dmaPerform_error {d : Dma} (ha : s.aborted = false) (hd : (s.chan c).dma = some d) (hp : d.performed = false) :
    dmaPerform c s = s.abort := by
  simp [dmaPerform, hd, ha, hp, onBus_error _ he]

/-- The lock is taken before the `SELECT` that fails. -/
theorem openSpan_error {sp : Speed} (ha : s.aborted = false) (hat : (s.env c).attached = true)
    (hl : (s.chan c).lockOwner = none) (hs : (s.chan c).sel = none) :
    openSpan c sp s = .raise .fatalBus .nothing (s.setChan c { s.chan c with
      lockOwner := some .card, trace := (s.chan c).trace ++ [.lock .card] }).abort := by
  rw [openSpan, unlessAborted_clear _ ha, busLock_free hl]
  simpa [hat] using busSelect_error (by simpa using he) (by simp) (by simpa using hs)

theorem openBegin_error {sp : Speed} {kind : DmaKind} (ha : s.aborted = false) (hat : (s.env c).attached = true)
    (hf : (s.chan c).flag kind = true) (hl : (s.chan c).lockOwner = none) (hs : (s.chan c).sel = none) :
    openBegin c sp kind s = .raise .fatalBus .nothing (s.setChan c { (s.chan c).setFlag kind false with
      lockOwner := some .card, trace := (s.chan c).trace ++ [.lock .card] }).abort := by
  rw [openBegin, unlessAborted_clear _ ha, busLock_free hl]
  simp only [hat, hf]
  cases kind <;> simpa [Chan.setFlag] using busSelect_error (by simpa using he) (by simp) (by simpa using hs)

/-- The interrupt handler takes the lock before the `SELECT` that fails. -/
theorem cardInterrupt_error {sp : Speed} (ha : s.aborted = false) (hi : (s.env c).card.intEnable = true)
    (hh : (s.chan c).intHandler = some (.clearStatus sp)) (hl : (s.chan c).lockOwner = none)
    (hs : (s.chan c).sel = none) :
    cardInterrupt c s = (s.setChan c { s.chan c with
      lockOwner := some .card, trace := (s.chan c).trace ++ [.lock .card] }).abort := by
  simp only [cardInterrupt, cardInterruptBody, hi, ha, hh, clearStatusHandler, busLock_free hl]
  rw [busSelect_error (by simpa using he) (by simp) (by simpa using hs)]
  rfl

/-- The callback has written the flag and the record before its `DESELECT` fails. -/
theorem dmaComplete_error {d : Dma} (ha : s.aborted = false) (hd : (s.chan c).dma = some d) (hp : d.performed = true)
    (hs : (s.chan c).sel ≠ none) : dmaComplete c s = (callbackStart c d.kind s).abort := by
  have hdeselect : busDeselect c (callbackStart c d.kind s) =
      .raise .fatalBus .nothing (callbackStart c d.kind s).abort :=
    busDeselect_error (by cases d.kind <;> simpa [callbackStart, settleRaces] using he)
      (by cases d.kind <;> simpa [callbackStart, settleRaces] using hs) (by simp [callbackStart])
  rw [dmaComplete_enabled ha hd hp, closeSpan, hdeselect]
  rfl

end

/-! ### The primitives before it -/

section
variable {k : Nat} (he : (s.env c).busErrorIn = some (k + 1))
include he

theorem onBus_tick {α : Type} (f : State → Res α) : onBus c s f = f (s.setEnv c ((s.env c).armed k)) := by
  simp [onBus, he, Env.armed]

theorem busSelect_tick {slot : DeviceSlot} {sp : Speed} (hl : (s.chan c).lockOwner = some slot)
    (hs : (s.chan c).sel = none) : busSelect c slot sp s = .ok () ((s.setChan c { s.chan c with
      sel := some ⟨slot, sp⟩, fsm := .commandSent, trace := (s.chan c).trace ++ [.select slot sp] }).setEnv c
      ((s.env c).armed k).newSpan) := by
  simp [busSelect, hl, hs, onBus_tick he, Env.newSpan]

theorem busImmWrite_tick {bytes : List Byte} (hs : (s.chan c).sel ≠ none) (hd : (s.chan c).dma = none) :
    busImmWrite c bytes s = .ok () ((s.setChan c { s.chan c with
      trace := (s.chan c).trace ++ [.immWrite bytes] }).setEnv c (((s.env c).armed k).receive c bytes)) := by
  simp [busImmWrite, hs, hd, onBus_tick he, State.emit]

theorem openSpan_tick {sp : Speed} (h : ChannelFree c s) : openSpan c sp s = .ok () ((s.setChan c { s.chan c with
    lockOwner := some .card
    sel := some ⟨.card, sp⟩
    fsm := .commandSent
    trace := (s.chan c).trace ++ [.lock .card, .select .card sp] }).setEnv c ((s.env c).armed k).newSpan) := by
  obtain ⟨ha, hat, hl, hs, -, -⟩ := h
  simp only [openSpan, unlessAborted_clear _ ha, hat, busLock_free hl]
  rw [busSelect_tick (by simpa using he) (by simp) (by simpa using hs)]
  simp

theorem openBegin_tick {sp : Speed} {kind : DmaKind} (h : ChannelFree c s) (hf : (s.chan c).flag kind = true) :
    openBegin c sp kind s = .ok () ((s.setChan c { (s.chan c).setFlag kind false with
      lockOwner := some .card
      sel := some ⟨.card, sp⟩
      fsm := .commandSent
      trace := (s.chan c).trace ++ [.lock .card, .select .card sp] }).setEnv c ((s.env c).armed k).newSpan) := by
  obtain ⟨ha, hat, hl, hs, -, -⟩ := h
  simp only [openBegin, unlessAborted_clear _ ha, hat, busLock_free hl, hf]
  rw [busSelect_tick (by simpa using he) (by simp) (by simpa using hs)]
  cases kind <;> simp [Chan.setFlag]

end

/-! ### The operations -/

/-- What the first write of its span raises ends a span operation. -/
theorem exec_spanInstr_write_raise {sp : Speed} {en : Bool} {i : Instr} {e : ResultCode} {info : Info} {t u : State}
    (hi : i ∈ spanInstrs c sp en) (hopen : openSpan c sp s = .ok () t)
    (h : ∀ bytes, busImmWrite c bytes t = .raise e info u) : exec i s = .next (raiseEnd s e info u) := by
  obtain rfl | rfl | rfl | rfl | rfl : i = .getId c sp ∨ i = .readStatus c sp ∨ i = .clearStatus c sp ∨
    i = .enableInterrupt c sp en ∨ i = .waitReady c sp := by simpa [spanInstrs] using hi
  · simp [exec, execGetId, inSpan, hopen, wireIdentify, h]
  · simp [exec, execReadStatus, readStatusOnce, inSpan, hopen, wireStatus, h]
  · simp [exec, execClearStatus, inSpan, hopen, wireClearStatus, h]
  · simp [exec, execEnableInterrupt, inSpan, hopen, wireEnableInt, h]
  · simp [exec, execWaitReady, readStatusOnce, inSpan, hopen, wireStatus, h]

/-- What the wire sequence of a begin operation raises ends it. -/
theorem exec_beginInstr_wire_raise {sp : Speed} {o : Word} {n : Nat} {kind : DmaKind} {e : ResultCode} {info : Info}
    {t u : State} (hfit : beginFits n (s.env c) kind = true) (hopen : openBegin c sp kind s = .ok () t)
    (h : beginWire c o n kind t = .raise e info u) :
    exec (beginInstr c sp o n kind) s = .next (raiseEnd s e info u) := by
  rw [exec_beginInstr_of_fits hfit, hopen, Res.andThen_ok, h]
  rfl

end

/-- A primitive that reports the error ends its operation. -/
theorem finish_error {s : State} {r : Res Unit} (h : r = .raise .fatalBus .nothing s.abort) :
    finish s r.unit = .next (s.abort.takeException .fatalBus .nothing) := by
  rw [h]
  rfl

/-- The channel in the span of an operation that began with channel `x`. -/
def Chan.inSpan (x : Chan) (sp : Speed) (fsm : Fsm) (sent : List BusEvent) : Chan :=
  { x with
    lockOwner := some .card
    sel := some ⟨.card, sp⟩
    fsm := fsm
    trace := x.trace ++ [.lock .card, .select .card sp] ++ sent }

/-- A state in the span of a begin operation that began in `s`. -/
def begunSpan (c : Channel) (sp : Speed) (kind : DmaKind) (s : State) (fsm : Fsm) (sent : List BusEvent) (e : Env) :
    State := s.onSide c (((s.chan c).setFlag kind false).inSpan sp fsm sent) e

section
variable {c : Channel} {sp : Speed} {o : Word} {n k : Nat} {kind : DmaKind} {s : State} {fsm : Fsm}
  {sent : List BusEvent} {e : Env}

@[simp] theorem begunSpan_env : (begunSpan c sp kind s fsm sent e).env c = e := State.setEnv_env ..
@[simp] theorem begunSpan_chan : (begunSpan c sp kind s fsm sent e).chan c =
    ((s.chan c).setFlag kind false).inSpan sp fsm sent := by simp [begunSpan, State.onSide]

@[simp] theorem Chan.inSpan_sel {x : Chan} : (x.inSpan sp fsm sent).sel = some ⟨.card, sp⟩ := rfl
@[simp] theorem Chan.inSpan_fsm {x : Chan} : (x.inSpan sp fsm sent).fsm = fsm := rfl
@[simp] theorem Chan.inSpan_dma {x : Chan} : (x.inSpan sp fsm sent).dma = x.dma := rfl
@[simp] theorem Chan.inSpan_rbuf {x : Chan} : (x.inSpan sp fsm sent).rbuf = x.rbuf := rfl

@[simp] theorem toAwaitingDma_begunSpan :
    toAwaitingDma c (begunSpan c sp kind s fsm sent e) = begunSpan c sp kind s .awaitingDMA sent e := by
  simp [toAwaitingDma, begunSpan, State.onSide, Chan.inSpan]

section
variable (hd : (s.chan c).dma = none)
include hd

/-- A write in the span, before the error. -/
theorem begunSpan_write {bytes : List Byte} (he : e.busErrorIn = some (k + 1)) :
    busImmWrite c bytes (begunSpan c sp kind s fsm sent e) =
      .ok () (begunSpan c sp kind s fsm (sent ++ [.immWrite bytes]) ((e.armed k).receive c bytes)) := by
  rw [busImmWrite_tick (by simpa using he) (by simp) (by simpa using hd)]
  simp [begunSpan, State.onSide, Chan.inSpan]

theorem begunSpan_write_error {bytes : List Byte} (he : e.busErrorIn = some 0) :
    busImmWrite c bytes (begunSpan c sp kind s fsm sent e) =
      .raise .fatalBus .nothing (begunSpan c sp kind s fsm sent e).abort :=
  busImmWrite_error (by simpa using he) (by simp) (by simpa using hd)

theorem begunSpan_issue_error (he : e.busErrorIn = some 0) (hk : e.aligned kind = true) :
    busDmaIssue c kind kind.dir kind.len (begunSpan c sp kind s .awaitingDMA sent e) =
      .raise .fatalBus .nothing (begunSpan c sp kind s .awaitingDMA sent e).abort :=
  busDmaIssue_error (by simpa using he) (by simpa using hk) (by simp) (by simpa using hd) (by simp)

end

/-- In a begin's span, with `k` primitives to go, the wire sequence ends in the error with the span as given. -/
def WireDies (c : Channel) (sp : Speed) (o : Word) (n : Nat) (kind : DmaKind) (s : State) (k : Nat) (fsm : Fsm)
    (sent : List BusEvent) : Prop :=
  ∃ e, beginWire c o n kind (begunSpan c sp kind s .commandSent [] ((s.env c).armed k).newSpan) =
    .raise .fatalBus .nothing (begunSpan c sp kind s fsm sent e).abort

theorem WireDies.exec (h : WireDies c sp o n kind s k fsm sent) (hfree : ChannelFree c s)
    (hfit : beginFits n (s.env c) kind = true) (hf : (s.chan c).flag kind = true)
    (he : (s.env c).busErrorIn = some (k + 1)) :
    ∃ t, exec (beginInstr c sp o n kind) s = .next t ∧ t.aborted = true ∧ t.ret = .raised .fatalBus .nothing ∧
      t.chan c = ((s.chan c).setFlag kind false).inSpan sp fsm sent := by
  obtain ⟨e, hwire⟩ := h
  have hopen : openBegin c sp kind s =
      .ok () (begunSpan c sp kind s .commandSent [] ((s.env c).armed k).newSpan) := by
    rw [openBegin_tick he hfree hf]
    cases kind <;> simp [begunSpan, State.onSide, Chan.inSpan, Chan.setFlag]
  exact ⟨_, exec_beginInstr_wire_raise hfit hopen hwire, rfl, rfl, by simp⟩

section
variable (hd : (s.chan c).dma = none)
include hd

/-- The command bytes fail. -/
theorem wireDies_command : WireDies c sp o n kind s 0 .commandSent [] := by
  cases kind with
  | program => exact ⟨_, by rw [beginWire, wirePageProgram, begunSpan_write_error hd rfl, Res.andThen_raise]⟩
  | read => exact ⟨_, by rw [beginWire, wirePageRead, begunSpan_write_error hd rfl, Res.andThen_raise]⟩

/-- The issue of the program DMA fails. -/
theorem wireDies_programIssue (hk : (s.env c).aligned .program = true) :
    WireDies c sp o n .program s 1 .awaitingDMA [.immWrite (0xF2 :: addrEncode o)] := by
  rw [WireDies, beginWire, wirePageProgram, begunSpan_write hd rfl, Res.andThen_ok, toAwaitingDma_begunSpan]
  exact ⟨_, begunSpan_issue_error (kind := .program) hd (by simp) (by simpa using hk)⟩

/-- The dummy bytes fail. -/
theorem wireDies_dummies : WireDies c sp o n .read s 1 .awaitingDMA [.immWrite (0x52 :: addrEncode o)] := by
  rw [WireDies, beginWire, wirePageRead, begunSpan_write hd rfl, Res.andThen_ok, toAwaitingDma_begunSpan,
    begunSpan_write_error hd (by simp), Res.andThen_raise]
  exact ⟨_, rfl⟩

/-- The issue of the read DMA fails. -/
theorem wireDies_readIssue (hk : (s.env c).aligned .read = true) : WireDies c sp o n .read s 2 .awaitingDMA
    [.immWrite (0x52 :: addrEncode o), .immWrite (dummyBytes s c n)] := by
  rw [WireDies, beginWire, wirePageRead, begunSpan_write hd rfl, Res.andThen_ok, toAwaitingDma_begunSpan,
    begunSpan_write (k := 0) hd (by simp), Res.andThen_ok, dummyBytes_congr (s := s) (by simp)]
  exact ⟨_, begunSpan_issue_error (kind := .read) hd (by simp) (by simpa using hk)⟩

end
end

/-- Settles O22: with the countdown at zero the next primitive fails in place; above it the lines before that primitive
have run; and no operation answers `FATAL_BUS` without the mark. -/
theorem busErrorIsFatal : Obligations.BusErrorIsFatal := by
  refine ⟨fun c s ha he => ⟨fun slot sp hl hs => ?_, fun hs hd => ?_, fun hs hd => ⟨fun bytes => ?_, fun n hn => ?_,
      fun kind hf hk => ?_⟩, fun d hd hp => dmaPerform_error he ha hd hp, fun hat hl hs => ⟨fun sp en i hi => ?_,
      fun sp o hf hk => ?_, fun sp o n hf hk hn => ?_⟩, fun d hd hp hs hw hr => ?_,
      fun sp hi hh hl hs => cardInterrupt_error he ha hi hh hl hs⟩,
    fun c sp en s hfree he i hi => ?_, fun c sp o n s hfree hn hkp hkr => ⟨fun hf => ⟨fun he => ?_, fun he => ?_⟩,
      fun hf => ⟨fun he => ?_, fun he => ?_, fun he => ?_⟩⟩, fun i s t ha h => (exec_inv h).fatal ha⟩
  · rw [execSelect_clear ha]; exact finish_error (busSelect_error he hl hs)
  · have hdone : (s.chan c).dma = none ∨ (s.chan c).dma.any (·.performed) = true :=
      hd.imp_right fun ⟨d, hd, hp⟩ => by simp [hd, hp]
    rw [execDeselect_clear ha]; exact finish_error (busDeselect_error he hs hdone)
  · rw [execImmWrite_clear ha]; exact finish_error (busImmWrite_error he hs hd)
  · rw [execImmRead_clear ha, busImmRead_error he hn hs hd]; rfl
  · rw [execDmaTransfer_clear ha]; exact finish_error (busDmaIssue_error he hk hs hd hf)
  · exact exec_spanInstr_raise hi (openSpan_error he ha hat hl hs)
  · exact exec_beginInstr_raise (n := 0) (kind := .program) hk (openBegin_error he ha hat hf hl hs)
  · exact exec_beginInstr_raise (kind := .read) (beginFits_of hn hk) (openBegin_error he ha hat hf hl hs)
  · rw [dmaComplete_error he ha hd hp hs]
    refine ⟨rfl, ?_⟩
    cases d.kind <;> simp [callbackStart, settleRaces, Chan.setFlag, hw, hr, Memory.writeEach]
  · exact ⟨_, exec_spanInstr_write_raise hi (openSpan_tick he hfree) fun bytes => busImmWrite_error (by simp) (by simp)
      (by simpa using dma_of_channelFree hfree), rfl, rfl, by simp⟩
  · exact (wireDies_command (n := 0) (kind := .program) (dma_of_channelFree hfree)).exec hfree hkp hf he
  · exact (wireDies_programIssue (n := 0) (dma_of_channelFree hfree) hkp).exec hfree hkp hf he
  · exact (wireDies_command (kind := .read) (dma_of_channelFree hfree)).exec hfree (beginFits_of hn hkr) hf he
  · exact (wireDies_dummies (dma_of_channelFree hfree)).exec hfree (beginFits_of hn hkr) hf he
  · exact (wireDies_readIssue (dma_of_channelFree hfree) hkr).exec hfree (beginFits_of hn hkr) hf he

end Sys2Proof.Machine

/-! ## The card's pages (R77, R78, R149) -/

namespace Sys2Proof.Machine

open Sys2Proof.Safety

/-! ### Storing page data -/

section
variable {f base : Nat → Byte} {m : List Host.Cell} {o pos a k : Nat} {bs : List Byte}

/-- Page data lands from its place in the page on; away from a page boundary it is draws (R78). -/
theorem byteAt_storePage : Memory.byteAt .card base (storePage f m o pos bs) a =
    if o / 128 * 128 + pos ≤ a then
      (if o % 128 = 0 then bs else (List.range bs.length).map f)[a - (o / 128 * 128 + pos)]?.getD
        (Memory.byteAt .card base m a)
    else Memory.byteAt .card base m a := by
  unfold storePage
  split
  · next h => rw [Memory.byteAt_writeBytes, show o + pos = o / 128 * 128 + pos by omega]
  · next h => rw [Memory.byteAt_writeBytes, show o - o % 128 + pos = o / 128 * 128 + pos by omega]

theorem byteAt_storePage_outside (hfit : bs.length ≤ 128 - pos) (ha : a / 128 ≠ o / 128) :
    Memory.byteAt .card base (storePage f m o pos bs) a = Memory.byteAt .card base m a := by
  rw [byteAt_storePage]
  split
  · have hlen : (if o % 128 = 0 then bs else (List.range bs.length).map f).length = bs.length := by split <;> simp
    rw [List.getElem?_eq_none (by omega), Option.getD_none]
  · rfl

theorem byteAt_storePage_inside {b : Byte} (hk : bs[k]? = some b) :
    Memory.byteAt .card base (storePage f m o pos bs) (o / 128 * 128 + pos + k) =
      if o % 128 = 0 then b else f k := by
  have hlt : k < bs.length := (List.getElem?_eq_some_iff.mp hk).1
  rw [byteAt_storePage, if_pos (by omega), show o / 128 * 128 + pos + k - (o / 128 * 128 + pos) = k by omega]
  split
  · rw [hk, Option.getD_some]
  · simp [hlt]

end

theorem dataPart_length (n : Nat) (bs : List Byte) : (dataPart n bs).length ≤ 128 - (max n 5 - 5) := by
  simp only [dataPart, List.length_take]
  omega

/-- The byte numbered `5 + k` of the span is byte `k` of the page. -/
theorem getElem?_dataPart {n j k : Nat} {bs : List Byte} (h : n + j = 5 + k) (hk : k < 128) :
    (dataPart n bs)[k - (max n 5 - 5)]? = bs[j]? := by
  rw [dataPart, List.getElem?_take_of_lt (by omega), List.getElem?_drop]
  congr 1
  omega

/-! ### What the card makes of received bytes -/

section
variable {e : Env} {c : Channel} {bs : List Byte} {op : Byte}

/-- In a span that begins with a PAGE_PROGRAM the card stores page data (R149). -/
theorem Env.receive_byteAt_program (h : (e.card.cmdAfter bs).head? = some 0xF2) (a : Nat) :
    (e.receive c bs).card.byteAt c a = Memory.byteAt .card (Memory.initial .card c e.card.content)
      (storePage (fun i => e.draw c (bs.length + i)) e.card.storage (cmdOffset (e.card.cmdAfter bs))
        (max e.card.received 5 - 5) (dataPart e.card.received bs)) a := by
  have hk : strayCmd (e.card.cmdAfter bs) = false := (strayCmd_of_head h).trans (by rfl)
  rw [Env.receive_known hk, Card.byteAt]
  simp only [Env.accept, h, if_true]

/-- Byte `k` of the page, if it is received now. -/
theorem Env.receive_byteAt_inside {j k : Nat} {b : Byte} (h : (e.card.cmdAfter bs).head? = some 0xF2)
    (hb : bs[j]? = some b) (hj : e.card.received + j = 5 + k) (hk : k < 128) :
    (e.receive c bs).card.byteAt c (cmdOffset (e.card.cmdAfter bs) / 128 * 128 + k) =
      if cmdOffset (e.card.cmdAfter bs) % 128 = 0 then b
      else e.draw c (bs.length + (k - (max e.card.received 5 - 5))) := by
  have hdata := (getElem?_dataPart (bs := bs) hj hk).trans hb
  rw [Env.receive_byteAt_program h, ← byteAt_storePage_inside (o := cmdOffset (e.card.cmdAfter bs))
    (f := fun i => e.draw c (bs.length + i)) (pos := max e.card.received 5 - 5) hdata]
  congr 1
  omega

/-- In a span that begins with another opcode the card stores nothing. -/
theorem Env.receive_byteAt_other (h : (e.card.cmdAfter bs).head? = some op) (hrow : (rowOf .wire op).isNone = false)
    (hop : op ≠ 0xF2) (a : Nat) : (e.receive c bs).card.byteAt c a = e.card.byteAt c a := by
  have hk : strayCmd (e.card.cmdAfter bs) = false := (strayCmd_of_head h).trans hrow
  rw [Card.byteAt, Card.byteAt, Env.receive_storage_other hk (by simpa [h] using hop), Env.receive_content hk]

end

theorem opcode_ne_pageProgram : ∀ op ∈ ([0x52, 0x81, 0x83, 0x85, 0x89] : List Byte),
    (rowOf .wire op).isNone = false ∧ op ≠ 0xF2 := by decide

theorem opcode_ne_enableInt : ∀ op ∈ ([0x52, 0x83, 0x85, 0x89, 0xF2] : List Byte),
    (rowOf .wire op).isNone = false ∧ op ≠ 0x81 := by decide

/-- Settles O47: page data is one run of writes inside its page, and only the second byte of ENABLE_INT is an enable. -/
theorem receivedPageDataLandsInItsPage : Obligations.ReceivedPageDataLandsInItsPage := by
  intro c e bytes
  refine ⟨fun ⟨op, hop, hcmd⟩ a => ?_, fun hcmd a ha => ?_, fun hcmd j k b hb hj hk => ?_, fun ⟨op, hop, hcmd⟩ => ?_,
    fun f hm hcmd hreceived hbytes => ?_⟩
  · obtain ⟨hrow, hne⟩ := opcode_ne_pageProgram op hop
    exact Env.receive_byteAt_other hcmd hrow hne a
  · show (e.receive c bytes).card.byteAt c a = _
    rw [Env.receive_byteAt_program hcmd, byteAt_storePage_outside (dataPart_length ..) ha]
    rfl
  · have hinside := Env.receive_byteAt_inside hcmd hb hj hk (c := c)
    refine ⟨fun h => ?_, fun h => ⟨_, Nat.le_add_right .., hinside.trans (if_neg h)⟩⟩
    rw [if_pos h, show cmdOffset (e.card.cmdAfter bytes) / 128 * 128 = cmdOffset (e.card.cmdAfter bytes) by omega]
      at hinside
    exact hinside
  · obtain ⟨hrow, hne⟩ := opcode_ne_enableInt op hop
    exact Env.receive_intEnable_other ((strayCmd_of_head hcmd).trans hrow) (by simpa [hcmd] using hne)
  · subst hbytes
    rw [(⟨hcmd, hreceived⟩ : e.Fresh).receive_known [f] (by rfl)]
    by_cases hf : f = 1 <;> simp [Env.accept, hm, hcmd, hreceived, Card.cmdAfter, enableAfter, hf]

end Sys2Proof.Machine

/-! ## The round trip through the card (R78, R150, R251) -/

namespace Sys2Proof.Machine

open Sys2Proof.Safety Sys2Proof.AddressField

/-! ### Page commands at the start of a span -/

/-- No command but IDENTIFY and STATUS changes what is counted as sent. -/
theorem Env.receive_sent {e : Env} {c : Channel} {bs : List Byte} {op : Byte}
    (h : (e.card.cmdAfter bs).head? = some op) (hi : op ≠ 0x85) (hs : op ≠ 0x83) :
    (e.receive c bs).card.sent = e.card.sent := by
  rw [Env.receive, Env.stray_sent]
  refine if_neg fun ⟨_, hop⟩ => ?_
  rw [h, Option.some.injEq, Option.some.injEq] at hop
  exact hop.elim hi hs

theorem cmdOffset_pageCommand (op : Byte) (o : Word) : cmdOffset (op :: addrEncode o) = o.toNat % 2 ^ 23 :=
  toNat_addrOf_addrEncode o

section
variable {e : Env} {c : Channel} (h : e.Fresh)
include h

/-- The page command stays the command whatever follows it. -/
theorem Env.Fresh.cmdAfter_pageCommand (op : Byte) (o : Word) (bs : List Byte) :
    (e.receive c (op :: addrEncode o)).card.cmdAfter bs = op :: addrEncode o := by
  simp [Card.cmdAfter, h.cmd, addrEncode]

/-- A page sent at its boundary is on the card (R78, R149). -/
theorem Env.Fresh.byteAt_programmed {o : Word} {data : List Byte} {k : Nat} {b : Byte} (ho : o.toNat % 128 = 0)
    (hb : data[k]? = some b) (hk : k < 128) :
    ((e.receive c (cmdPageProgram o)).receive c data).card.byteAt c (o.toNat % 2 ^ 23 + k) = b := by
  have hcmd : (e.receive c (cmdPageProgram o)).card.cmdAfter data = 0xF2 :: addrEncode o :=
    h.cmdAfter_pageCommand 0xF2 o data
  have hreceived : (e.receive c (cmdPageProgram o)).card.received = 5 := by
    simp [h.received, cmdPageProgram, addrEncode]
  have hinside := Env.receive_byteAt_inside (c := c) (j := k) (k := k) (by rw [hcmd]; rfl) hb (by rw [hreceived]) hk
  rw [hcmd, cmdOffset_pageCommand, if_pos (by omega),
    show o.toNat % 2 ^ 23 / 128 * 128 = o.toNat % 2 ^ 23 by omega] at hinside
  exact hinside

/-- What a PAGE_READ makes of the reference card: its dummy bytes decide whether it answers (R78). -/
theorem Env.Fresh.refAnswer_pageRead (hread : e.card.readAt = none) (o : Word) (bs : List Byte) {k : Nat}
    (hk : k < 512) : ((e.receive c (cmdPageRead o)).receive c bs).card.refAnswer c k =
      if bs.length = e.card.latency then some (e.card.byteAt c ((o.toNat % 2 ^ 23 + k) % 2 ^ 23)) else none := by
  have hholds := h.holds_pageRead (c := c) o bs
  have hcmd : ((e.receive c (cmdPageRead o)).receive c bs).card.cmd = 0x52 :: addrEncode o := by
    rw [Env.receive_cmd]; exact h.cmdAfter_pageCommand 0x52 o bs
  have hstart : ((e.receive c (cmdPageRead o)).receive c bs).card.readStart = 5 + bs.length := by
    simp [Card.readStart, hread, h.received, cmdPageRead, addrEncode]
  have hlatency : ((e.receive c (cmdPageRead o)).receive c bs).card.latency = e.card.latency := by
    rw [Card.latency, hholds.cardId, Card.latency]
  have hbyte : ((e.receive c (cmdPageRead o)).receive c bs).card.byteAt c = e.card.byteAt c := by
    funext a
    rw [Card.byteAt, hholds.storage, hholds.content, Card.byteAt]
  simp [Card.refAnswer, hcmd, hstart, hlatency, hbyte, hk, cmdOffset_pageCommand, Config.cardLen,
    -Env.receive_cmd]

theorem Env.Fresh.sent_pageRead (o : Word) (bs : List Byte) :
    ((e.receive c (cmdPageRead o)).receive c bs).card.sent = e.card.sent := by
  have hafter : ((e.receive c (cmdPageRead o)).card.cmdAfter bs).head? = some 0x52 :=
    congrArg List.head? (h.cmdAfter_pageCommand 0x52 o bs)
  have hcmd : (e.card.cmdAfter (cmdPageRead o)).head? = some 0x52 := by rw [h.cmdAfter]; rfl
  exact (Env.receive_sent hafter (by decide) (by decide)).trans (Env.receive_sent hcmd (by decide) (by decide))

end

/-! ### A read, from its begin to its completion -/

section
variable {c : Channel} {sp : Speed} {o : Word} {n : Nat} {s : State}

/-- The environment in which a read DMA performs: the card has received the command and the dummy bytes. -/
def readEnv (c : Channel) (o : Word) (n : Nat) (s : State) : Env :=
  ((s.env c).newSpan.receive c (cmdPageRead o)).receive c (dummyBytes s c n)

theorem begunChan_dma (sp : Speed) (kind : DmaKind) (sent : List BusEvent) (x : Chan) :
    (begunChan sp kind sent x).dma = some ⟨kind, kind.dir, kind.len, false⟩ := rfl

/-- The premises of a read from the reference card. -/
structure CanRead (c : Channel) (s : State) : Prop where
  free : ChannelFree c s
  noError : NoBusError c s
  reference : (s.env c).card.model = .reference
  placed : (s.env c).aligned .read = true
  done : (s.chan c).readDone = true
  unraced : (s.chan c).rbufRaced = []

/-- A read brings what the card answers into the read buffer. -/
theorem CanRead.readRound (h : CanRead c s) (hn : n ≤ Config.readExtra) :
    ∃ u, exec (.beginRead c sp o n) s = .next u ∧
      ∀ k < 512, (dmaComplete c (dmaPerform c u)).byteAt .rbuf c k = (readEnv c o n s).answer c k := by
  obtain ⟨hfree, hb, -, hk, hflag, hraced⟩ := h
  have ha : s.aborted = false := hfree.1
  refine ⟨_, exec_beginRead_free hfree hb hflag hn hk, fun k hk => ?_⟩
  rw [dmaPerform_read (len := 512) (by simpa using ha) (by simpa [NoBusError] using hb)
    (by simp [begunChan_dma, DmaKind.dir, DmaKind.len, Config.readBufLen])]
  generalize hbytes : Env.answers _ c 512 = bytes
  rw [dmaComplete_performed (d := ⟨.read, .fromCard, 512, true⟩) (by simpa using ha) (by simpa [NoBusError] using hb)
    (by simp) rfl (by simp [begunChan]) (by simp [begunChan])]
  have hget : bytes[k]? = some ((readEnv c o n s).answer c k) := by
    rw [← hbytes]
    simp [readEnv, Env.answers, hk]
  simp [State.byteAt_rbuf, callbackChan, begunChan, hraced, Memory.writeEach, Memory.byteAt_writeBytes, hget]

theorem Card.newSpan_byteAt (k : Card) (c : Channel) (a : Nat) : k.newSpan.byteAt c a = k.byteAt c a := rfl

theorem dummyBytes_length (s : State) (c : Channel) (n : Nat) : (dummyBytes s c n).length = n := by
  simp [dummyBytes_eq]

theorem CanRead.answer_eq (h : CanRead c s) {k : Nat} (hk : k < 512) : (readEnv c o n s).answer c k =
    if n = (s.env c).card.latency then s.byteAt .card c ((o.toNat % 2 ^ 23 + k) % 2 ^ 23)
    else (readEnv c o n s).draw c k := by
  have hfresh := (s.env c).fresh_newSpan
  have hmodel : (readEnv c o n s).card.model = .reference := by simpa [readEnv] using h.reference
  have hsent : (readEnv c o n s).card.sent = 0 := hfresh.sent_pageRead o _
  have hanswer : (readEnv c o n s).card.refAnswer c k = if n = (s.env c).card.latency
      then some (s.byteAt .card c ((o.toNat % 2 ^ 23 + k) % 2 ^ 23)) else none := by
    have hpage := hfresh.refAnswer_pageRead (c := c) rfl o (dummyBytes s c n) hk
    rwa [dummyBytes_length] at hpage
  rw [Env.answer, hmodel, hsent, Nat.zero_add]
  show ((readEnv c o n s).card.refAnswer c k).getD _ = _
  rw [hanswer]
  split <;> rfl

theorem draws_le_readEnv : (s.env c).draws ≤ (readEnv c o n s).draws :=
  Nat.le_trans (Env.receive_draws_le (s.env c).newSpan c _) (Env.receive_draws_le _ c _)

/-- With the card's own latency a read brings the card's bytes (R78). -/
theorem CanRead.read_bytes (h : CanRead c s) : ∃ u, exec (.beginRead c sp o (s.env c).card.latency) s = .next u ∧
    ∀ k < 512, (dmaComplete c (dmaPerform c u)).byteAt .rbuf c k =
      s.byteAt .card c ((o.toNat % 2 ^ 23 + k) % 2 ^ 23) := by
  obtain ⟨u, hexec, hbytes⟩ := h.readRound (sp := sp) (o := o) (latency_le_readExtra _)
  exact ⟨u, hexec, fun k hk => (hbytes k hk).trans ((h.answer_eq hk).trans (if_pos rfl))⟩

/-- With another count it brings draws (R78, R251). -/
theorem CanRead.read_draws (h : CanRead c s) (hn : n ≤ Config.readExtra) (hne : n ≠ (s.env c).card.latency) :
    ∃ u, exec (.beginRead c sp o n) s = .next u ∧ ∀ k < 512, ∃ m, (s.env c).draws ≤ m ∧
      (dmaComplete c (dmaPerform c u)).byteAt .rbuf c k = Config.freeByte c m := by
  obtain ⟨u, hexec, hbytes⟩ := h.readRound (sp := sp) (o := o) hn
  exact ⟨u, hexec, fun k hk => ⟨_, Nat.le_trans draws_le_readEnv (Nat.le_add_right _ k),
    (hbytes k hk).trans ((h.answer_eq hk).trans (if_neg hne))⟩⟩

/-- The bytes of the write buffer. -/
def writeBuffer (c : Channel) (s : State) : List Byte := (List.range 128).map fun i => s.byteAt .wbuf c i

/-- The environment in which a program DMA has performed. -/
def programEnv (c : Channel) (o : Word) (s : State) : Env :=
  ((s.env c).newSpan.receive c (cmdPageProgram o)).receive c (writeBuffer c s)

theorem programEnv_byteAt {k : Nat} (ho : o.toNat % 128 = 0) (hk : k < 128) :
    (programEnv c o s).card.byteAt c (o.toNat % 2 ^ 23 + k) = s.byteAt .wbuf c k :=
  (s.env c).fresh_newSpan.byteAt_programmed ho (by simp [writeBuffer, hk]) hk

/-- The program DMA of a begun operation and its completion, as far as the card and the read buffer see them. -/
theorem programDma_env {t : State} (h : CanTransfer c t) (hfly : (t.chan c).InFlight (Dma.ofKind .program false)) :
    (dmaComplete c (dmaPerform c t)).env c = ((t.env c).receive c (programData c t)).newSpan ∧
      ((dmaComplete c (dmaPerform c t)).chan c).rbufRaced = (t.chan c).rbufRaced := by
  obtain ⟨hperformed, hfly'⟩ := dmaPerform_transfer h hfly
  rw [dmaComplete_performed hperformed.unmarked hperformed.noError hfly'.dma rfl hfly'.sel hfly'.owner,
    dmaPerform_program h.unmarked h.noError hfly.dma]
  simp [Dma.ofKind, callbackChan, callbackEnv]

/-- A program, from its begin to its completion, leaves the channel as it was and the card with what it received. -/
theorem CanRead.programRound (h : CanRead c s) (hk : (s.env c).aligned .program = true)
    (hflag : (s.chan c).programDone = true) (hraced : (s.chan c).wbufRaced = []) :
    ∃ t, exec (.beginProgram c sp o) s = .next t ∧ CanRead c (dmaComplete c (dmaPerform c t)) ∧
      (dmaComplete c (dmaPerform c t)).env c = (programEnv c o s).newSpan := by
  obtain ⟨hfree, hb, hmodel, hplaced, hdone, hrbuf⟩ := h
  have hexec := exec_beginProgram_free (sp := sp) (o := o) hfree hb hflag hk
  obtain ⟨t, hexec', -, ht, hfly⟩ := beginInstr_accepted (sp := sp) (o := o) (kind := .program) (n := 0)
    (.of_channelFree hfree hb hk hplaced) (.of_channelFree hfree hflag hdone) (Nat.zero_le _)
  obtain ⟨hperformed, hfly'⟩ := dmaPerform_transfer ht hfly
  obtain ⟨hcompleted, hrest⟩ := dmaComplete_transfer hperformed hfly'
  obtain ⟨henv, hunraced⟩ := programDma_env ht hfly
  have heq := Host.Outcome.next.inj (hexec'.symm.trans hexec)
  have hchan : t.chan c = begunChan sp .program [.immWrite (0xF2 :: addrEncode o)] (s.chan c) := by rw [heq]; simp
  have hreceived : t.env c = (s.env c).newSpan.receive c (cmdPageProgram o) := by rw [heq]; simp
  have hdata : programData c t = writeBuffer c s := by
    rw [programData_unraced (by simpa [hchan, begunChan] using hraced), writeBuffer]
    simp [State.byteAt_wbuf, hchan, begunChan]
  rw [hdata, hreceived] at henv
  exact ⟨t, hexec', ⟨hcompleted.channelFree hrest, hcompleted.noError, by rw [henv]; simpa using hmodel,
    hcompleted.placed _, hrest.flags.flag_of_none .read,
    hunraced.trans (by simpa [hchan, begunChan] using hrbuf)⟩, henv⟩

end

/-- Settles O48: a program leaves its page on the card, and a read answers from the card, or in draws. -/
theorem programmedPageReadsBack : Obligations.ProgrammedPageReadsBack := by
  intro c sp o s hfree hb hmodel hprogram hread hprogramDone hreadDone hwbuf hrbuf
  have hs : CanRead c s := ⟨hfree, hb, hmodel, hread, hreadDone, hrbuf⟩
  refine ⟨fun ho => ?_, hs.read_bytes, fun n hn hne => hs.read_draws hn hne⟩
  obtain ⟨t, hexec, ht, henv⟩ := hs.programRound (sp := sp) (o := o) hprogram hprogramDone hwbuf
  obtain ⟨u, hagain, hbytes⟩ := ht.read_bytes (sp := sp) (o := o)
  have hlatency : ((dmaComplete c (dmaPerform c t)).env c).card.latency = (s.env c).card.latency := by
    rw [henv]
    simp [Card.latency, programEnv]
  rw [hlatency] at hagain
  refine ⟨t, u, hexec, hagain, fun k hk => (hbytes k (by omega)).trans ?_⟩
  rw [State.byteAt_card, henv, Env.newSpan_card, Card.newSpan_byteAt,
    show (o.toNat % 2 ^ 23 + k) % 2 ^ 23 = o.toNat % 2 ^ 23 + k by omega]
  exact programEnv_byteAt ho hk

end Sys2Proof.Machine

/-! ## Stores that race a DMA (R70, R71, R74) -/

namespace Sys2Proof.Machine

open Sys2Proof.Safety

theorem Lines.outsideKept {c : Channel} {s t : State} {x : Chan} (h : Lines c (s.setChan c x) t) (r : Ret) :
    OutsideKept c s (t.setRet r) := by
  have honly := (((OnlyOn.rfl' c s).setChan x).trans h.onlyOn).withRet r
  exact ⟨fun d hd => ⟨honly.chan d hd, honly.env d hd⟩, by simpa using h.mark, honly.program, honly.agenda⟩

/-! ### The last data sent -/

/-- The last data a program DMA sent is the one that is amended. -/
theorem amendSent_append (i : Nat) (v : Byte) (es : List BusEvent) (data : List Byte) :
    amendSent i v (es ++ [.dmaData .toCard data]) = es ++ [.dmaData .toCard (data.set i v)] := by
  induction es with
  | nil => rfl
  | cons e es ih => simp [amendSent, ih]

/-! ### Stores to the write buffer -/

section
variable {c : Channel} {i : Nat} {v : Byte} {s : State}

/-- A store to the write buffer is a write of the channel and a line. -/
theorem storeWbuf_lines (c : Channel) (i : Nat) (v : Byte) (s : State) :
    ∃ u, Lines c (s.setChan c ((s.chan c).storedWbuf i v)) u ∧ storeWbuf c i v s = u.setRet (.returned .unit) := by
  rw [storeWbuf_eq]
  split
  · exact ⟨_, Lines.refl c _, rfl⟩
  · exact ⟨_, amendLate_lines, rfl⟩

/-- A store changes one byte of the write buffer and none of the read buffer. -/
theorem storeWbuf_buffers (a : Nat) :
    (storeWbuf c i v s).byteAt .wbuf c a = (if a = i then v else s.byteAt .wbuf c a) ∧
      (storeWbuf c i v s).byteAt .rbuf c a = s.byteAt .rbuf c a := by
  obtain ⟨u, hu, ht⟩ := storeWbuf_lines c i v s
  have hoff := hu.offBus
  rw [State.setChan_chan] at hoff
  rw [ht, State.byteAt_wbuf, State.byteAt_rbuf, State.setRet_chan, Chan.wbuf_of_offBus hoff, Chan.rbuf_of_offBus hoff]
  exact ⟨Memory.byteAt_write .., rfl⟩

/-- Unless a program DMA has performed in the window, the store is all there is. -/
theorem storeWbuf_early (h : (s.chan c).programDone = true ∨ (s.chan c).dma = some ⟨.program, .toCard, 128, false⟩) :
    storeWbuf c i v s = (s.setChan c ((s.chan c).storedWbuf i v)).setRet (.returned .unit) := by
  rw [storeWbuf_eq]
  split
  · rfl
  · next hdone =>
    have hd : (s.chan c).dma = some ⟨.program, .toCard, 128, false⟩ := h.resolve_left hdone
    have hamend : amendLate c i (s.setChan c ((s.chan c).storedWbuf i v)) =
        s.setChan c ((s.chan c).storedWbuf i v) := by
      simp [amendLate, Chan.storedWbuf, hd]
    rw [hamend]
    rfl

theorem storeWbuf_early_parts
    (h : (s.chan c).programDone = true ∨ (s.chan c).dma = some ⟨.program, .toCard, 128, false⟩) :
    (storeWbuf c i v s).chan c = (s.chan c).storedWbuf i v ∧ (storeWbuf c i v s).env c = s.env c := by
  rw [storeWbuf_early h]
  simp

theorem programData_length (c : Channel) (s : State) : (programData c s).length = 128 := by
  simp [programData, Config.writeBufLen]

/-- What a program DMA sends after stores in its window: draws for the raced bytes (R70). -/
theorem getElem?_programData {k : Nat} (hk : k < 128) : (programData c s)[k]? =
    some (if k ∈ (s.chan c).wbufRaced then (s.env c).draw c k else s.byteAt .wbuf c k) := by
  simp [programData, Config.writeBufLen, hk]

/-- The data of a program DMA after one more store in its window. -/
theorem getElem?_programData_stored {k : Nat} {t : State} (hk : k < 128) (ht : t.chan c = (s.chan c).storedWbuf i v)
    (he : t.env c = s.env c) (hdone : (s.chan c).programDone = false) :
    if k = i ∨ k ∈ (s.chan c).wbufRaced
    then ∃ n, (s.env c).draws ≤ n ∧ (programData c t)[k]? = some (Config.freeByte c n)
    else (programData c t)[k]? = some (s.byteAt .wbuf c k) := by
  have hraced : (t.chan c).wbufRaced = i :: (s.chan c).wbufRaced := by simp [ht, Chan.storedWbuf, hdone]
  have hbyte : t.byteAt .wbuf c k = if k = i then v else s.byteAt .wbuf c k := by
    rw [State.byteAt_wbuf, ht]; exact Memory.byteAt_write ..
  rw [getElem?_programData hk, hraced, hbyte, he]
  simp only [List.mem_cons]
  split
  · exact ⟨_, Nat.le_add_right _ k, rfl⟩
  · next h => rw [if_neg (not_or.mp h).1]

/-- A store once the program DMA has performed amends what was sent, and the page it went to (R70). -/
theorem storeWbuf_late (hdone : (s.chan c).programDone = false)
    (hd : (s.chan c).dma = some ⟨.program, .toCard, 128, true⟩) :
    ((storeWbuf c i v s).chan c).trace = amendSent i ((s.env c).draw c 0) (s.chan c).trace ∧
      ((s.env c).card.cmd.head? = some 0xF2 → cmdOffset (s.env c).card.cmd % 128 = 0 →
        (s.env c).card.received = 133 → i < 128 → ((storeWbuf c i v s).env c).card =
          { (s.env c).card with
            storage := Memory.write .card (s.env c).card.storage (cmdOffset (s.env c).card.cmd + i)
              ((s.env c).draw c 0) }) := by
  have hstored : ((s.setChan c ((s.chan c).storedWbuf i v)).chan c).dma = some ⟨.program, .toCard, 128, true⟩ := by
    simpa [Chan.storedWbuf] using hd
  rw [storeWbuf_eq, if_neg (by simp [hdone]), amendLate, hstored]
  refine ⟨by simp [Chan.storedWbuf], fun hcmd hpage hreceived hi => ?_⟩
  simpa [hcmd, hpage, hreceived, Config.writeBufLen] using fun h : 133 ≤ 5 + i => absurd h (by omega)

end

/-! ### The completion -/

section
variable {c : Channel} {s : State} {d : Dma}

/-- Off the bus, a completion leaves the channel as its callback's first lines do, whatever its span comes to. -/
theorem dmaComplete_offBus (ha : s.aborted = false) (hd : (s.chan c).dma = some d) (hp : d.performed = true) :
    ((dmaComplete c s).chan c).offBus = ((callbackStart c d.kind s).chan c).offBus := by
  rw [dmaComplete_enabled ha hd hp]
  obtain ⟨u, hu, hrun⟩ := State.runBody_of_ends (closeSpan_lines (Lines.refl c (callbackStart c d.kind s)))
  obtain hrun | hrun := hrun <;> rw [hrun]
  · exact hu.offBus
  · rw [State.abort_chan]; exact hu.offBus

/-- The completion of a read leaves draws where its buffer was stored to (R70). -/
theorem dmaComplete_byteAt_rbuf {len : Nat} (ha : s.aborted = false)
    (hd : (s.chan c).dma = some ⟨.read, .fromCard, len, true⟩) (a : Nat) :
    (dmaComplete c s).byteAt .rbuf c a =
      if a ∈ (s.chan c).rbufRaced then (s.env c).draw c a else s.byteAt .rbuf c a := by
  rw [State.byteAt_rbuf, Chan.rbuf_of_offBus (dmaComplete_offBus ha hd rfl)]
  simp only [callbackStart, settleRaces, State.setChan_chan, State.setEnv_chan, Chan.setFlag]
  exact Memory.byteAt_writeEach ..

end

/-- The channel and the environment in which a read that `s` has outstanding completes. -/
structure ReadMoved (c : Channel) (s u : State) : Prop where
  unmarked : u.aborted = false
  dma : (u.chan c).dma = some ⟨.read, .fromCard, 512, true⟩
  raced : (u.chan c).rbufRaced = (s.chan c).rbufRaced
  draws : (s.env c).draws ≤ (u.env c).draws

theorem readMoved {c : Channel} {s : State} {p : Bool} (ha : s.aborted = false) (hb : NoBusError c s)
    (hd : (s.chan c).dma = some ⟨.read, .fromCard, 512, p⟩) : ReadMoved c s (if p then s else dmaPerform c s) := by
  cases p with
  | true => exact ⟨ha, hd, rfl, Nat.le_refl _⟩
  | false =>
    simp only [Bool.false_eq_true, if_false]
    rw [dmaPerform_read ha hb hd]
    generalize (s.env c).answers c 512 = bytes
    exact ⟨by simpa using ha, by simp, by simp, by simpa using Env.afterSend_draws_le (s.env c) c 512⟩

/-- Settles O46: in its window a store records its index, and the data sent, or the completion, makes it a draw. -/
theorem racedStoresMakeTheSentByteADraw : Obligations.RacedStoresMakeTheSentByteADraw := by
  have hwbuf : Memory.size .wbuf = 128 := rfl
  have hrbuf : Memory.size .rbuf = 512 + Config.readExtra := rfl
  refine ⟨fun c i v s ha hi => ?_, fun c i v p s ha hi hdone hb hd => ?_, fun c d s ha hd hp => ?_⟩
  · obtain ⟨u, hu, hstore⟩ := storeWbuf_lines c i v s
    refine ⟨_, (runAccess_storeWbuf ha).trans (atIndex_ok (by omega)), rfl, hstore ▸ hu.outsideKept _,
      fun a => (storeWbuf_buffers a).1, fun a => (storeWbuf_buffers a).2, fun hdone => ?_, fun hdone hb hd => ?_,
      fun hdone hd es data htrace => ?_⟩
    · rw [storeWbuf_early (.inl hdone)]
      simp [Chan.storedWbuf, hdone]
    · obtain ⟨hchan, henv⟩ := storeWbuf_early_parts (i := i) (v := v) (.inr hd)
      have hmark : (storeWbuf c i v s).aborted = false := by
        rw [storeWbuf_early (.inr hd)]; simpa using ha
      refine ⟨by simp [hchan, Chan.storedWbuf], henv, programData c (storeWbuf c i v s), ?_, programData_length ..,
        fun k hk => getElem?_programData_stored hk hchan henv hdone⟩
      rw [dmaPerform_program (len := 128) hmark (by simpa [NoBusError, henv] using hb)
        (by simpa [hchan, Chan.storedWbuf] using hd), hchan]
      simp [Chan.storedWbuf]
    · obtain ⟨hlate, hcard⟩ := storeWbuf_late (i := i) (v := v) hdone hd
      refine ⟨by rw [hlate, htrace, amendSent_append]; rfl, fun hcmd hpage hreceived a => ?_⟩
      rw [State.byteAt_card, hcard hcmd hpage hreceived hi]
      exact Memory.byteAt_write ..
  · have hw : ¬ ((s.chan c).readDone = true ∨ Config.readBufLen ≤ i) := by simp [hdone, Config.readBufLen]; omega
    have hchan : (storeRbuf c i v s).chan c = (s.chan c).storedRbuf i v := by simp [storeRbuf_eq]
    have henv : (storeRbuf c i v s).env c = s.env c := by simp [storeRbuf_eq]
    refine ⟨_, (runAccess_storeRbuf ha).trans (atIndex_ok (by omega)), rfl, storeRbuf_outsideKept c i v s, henv,
      by simp [hchan, Chan.storedRbuf], storeRbuf_byteAt c i v s, fun a => ?_⟩
    have hu := readMoved (c := c) (s := storeRbuf c i v s) (p := p) (by simpa [storeRbuf_eq] using ha)
      (by simpa [NoBusError, henv] using hb)
      (by simpa [hchan, Chan.storedRbuf] using hd)
    have hraced : a ∈ ((storeRbuf c i v s).chan c).rbufRaced ↔ a = i ∨ a ∈ (s.chan c).rbufRaced := by
      rw [hchan, Chan.storedRbuf, if_neg hw, List.mem_cons]
    have hdraws := hu.draws
    rw [henv] at hdraws
    rw [dmaComplete_byteAt_rbuf hu.unmarked hu.dma, hu.raced]
    simp only [hraced]
    split
    · exact ⟨_, Nat.le_trans hdraws (Nat.le_add_right _ a), rfl⟩
    · rfl
  · have hoff := dmaComplete_offBus ha hd hp
    refine ⟨fun hk => ?_, fun hk => ?_⟩
    · rw [Chan.wbufRaced_of_offBus hoff, Chan.rbufRaced_of_offBus hoff, hk]
      simp [callbackStart, settleRaces]
    · rw [Chan.wbufRaced_of_offBus hoff, Chan.rbufRaced_of_offBus hoff, hk]
      simp [callbackStart, settleRaces]

end Sys2Proof.Machine
